-- ==== Sys2Proof/Config.lean ====
section
/-! DEFINITION. What an implementation fixes: the named parameters of R5, the codes of R37 to R40, the frame's layout
table of R22, and the two parameters the spec leaves OPEN, which are opaque constants. -/

namespace Sys2Proof

/-- STRICT_VERIFIES_SUM (R5, R213): OPEN (D25). No body: a claim about the machine holds for both values. -/
opaque Config.strictVerifiesSum : Bool

/-- PROTOCOL_ID (R5, R212): OPEN, a 16-bit value (D26). No body. -/
opaque Config.protocolId : BitVec 16

/-- The parameters of R5 and the codes of R37, R38, R40, with the spec's values as defaults. -/
structure Params where
  hdrMarkUs : Nat := 8836
  hdrSpaceUs : Nat := 4380
  bitMarkUs : Nat := 523
  oneSpaceUs : Nat := 1696
  zeroSpaceUs : Nat := 564
  carrierHz : Nat := 38000
  decodeOverhead : Nat := 3
  tempMinC : Nat := 16
  tempMaxC : Nat := 30
  tempMinF : Nat := 61
  tempMaxF : Nat := 86
  defaultTemp : Nat := 20
  technibelBits : Nat := 56
  headerConst : Nat := 0x18
  timerMaxHours : Nat := 24
  gapUs : Nat := 100000
  dutyPct : Nat := 50
  tolerancePct : Nat := 25
  markExcessUs : Nat := 50
  rxTimeoutUs : Nat := 15000
  rawTickUs : Nat := 1
  capDepth : Nat := 1024
  /-- FRAME_WIDTH and CAP_WIDTH are the widths of the types `Frame` and `Entry` (log entry 7). -/
  frameWidth : Nat := 64
  capWidth : Nat := 32
  modeCool : Nat := 1
  modeDry : Nat := 2
  modeFan : Nat := 4
  modeHeat : Nat := 8
  fanLow : Nat := 1
  fanMed : Nat := 2
  fanHigh : Nat := 4
  strictVerifiesSum : Bool
  protocolId : BitVec 16
deriving DecidableEq, Repr

/-- The machine's own parameters: the values of R5, and the two open ones. -/
def Config.machine : Params :=
  { strictVerifiesSum := Config.strictVerifiesSum, protocolId := Config.protocolId }

/-- A field of FRAME: `FRAME[offset+width-1 : offset]` (R6). -/
structure FieldPos where
  offset : Nat
  width : Nat
deriving DecidableEq, Repr

namespace Layout

/-! The layout of FRAME, R22 (decision D1 of the spec). -/

def sum : FieldPos := ⟨0, 8⟩
def rsvdFooter : FieldPos := ⟨8, 8⟩
def timerHours : FieldPos := ⟨16, 8⟩
def temp : FieldPos := ⟨24, 8⟩
def fan : FieldPos := ⟨32, 4⟩
def sleep : FieldPos := ⟨36, 1⟩
def swing : FieldPos := ⟨37, 1⟩
def unitF : FieldPos := ⟨38, 1⟩
def timerEn : FieldPos := ⟨39, 1⟩
def mode : FieldPos := ⟨40, 4⟩
def rsvdChg : FieldPos := ⟨44, 3⟩
def power : FieldPos := ⟨47, 1⟩
def header : FieldPos := ⟨48, 8⟩
def rsvdHi : FieldPos := ⟨56, 8⟩

/-- Every field, lowest first. -/
def fields : List FieldPos :=
  [sum, rsvdFooter, timerHours, temp, fan, sleep, swing, unitF, timerEn, mode, rsvdChg, power, header, rsvdHi]

end Layout

end Sys2Proof
end

