-- ==== Sys2Proof/Word.lean ====
section
/-! DEFINITION. The word types of the block: the command word, the frame, one entry of the capture buffer. -/

namespace Sys2Proof

/-- The frame register and every frame operand: "a 64-bit unsigned integer" (R6, R21). -/
abbrev Frame := BitVec 64

/-- One command word: 104 bits (R81). -/
abbrev CommandWord := BitVec 104

/-- One entry of the capture buffer: CAP_WIDTH = 32 bits (R46, R5). -/
abbrev Entry := BitVec 32

/-- `clamp(v, lo, hi) = min(max(v, lo), hi)` on unbounded naturals (R7). -/
def clamp (v lo hi : Nat) : Nat := min (max v lo) hi

end Sys2Proof
end

