-- ==== Sys2Proof/Syntax.lean ====
section
/-! DEFINITION. The commands of the block: one constructor per row of spec/opcode_table.json (R84), the operands of its
format (R82) as fields of their exact widths (R88). -/

namespace Sys2Proof

/-- The 26 commands of R84, in the table's order. -/
inductive Instr where
  | reset
  | setPower (b : Bool)
  | getPower
  | setTempUnit (f : Bool)
  | getTempUnit
  | setTemp (degrees : BitVec 8) (fahrenheit : Bool)
  | setTempCur (degrees : BitVec 8)
  | getTemp
  | setFan (speed : BitVec 8)
  | getFan
  | setMode (mode : BitVec 8)
  | getMode
  | setSwing (b : Bool)
  | getSwing
  | setSleep (b : Bool)
  | getSleep
  | setTimer (minutes : BitVec 16)
  | getTimer
  | getTimerEn
  | getPacked
  | loadPacked (value : Frame)
  | checksum (value : Frame)
  | encode (frame : Frame) (repeatCount : BitVec 16) (bitCount : BitVec 8)
  | decode (strict : Bool) (offset : BitVec 16) (bitCount : BitVec 8)
  | capClr
  | capPush (duration : Entry)
deriving DecidableEq, Repr

end Sys2Proof
end

