-- ==== Sys2Proof/WellFormed.lean ====
section
/-! DEFINITION. Which commands are legal as syntax (R86: the operand checks that need no state) and which parameter sets
are well-formed (R274). -/

namespace Sys2Proof

/-- The frame is 64 bits wide, so a bit count above 64 "names bits that do not exist" (R86). -/
def bitCountLegal (n : BitVec 8) : Bool := n.toNat ≤ 64

/-- No operand of the command is illegal whatever the state (R86). A command that fails this check still executes: its
effect is the ERR response of R86. -/
def Instr.wellFormed : Instr → Bool
  | .encode _ _ n => bitCountLegal n
  | .decode _ _ n => bitCountLegal n
  | .reset | .setPower _ | .getPower | .setTempUnit _ | .getTempUnit | .setTemp _ _ | .setTempCur _ | .getTemp
  | .setFan _ | .getFan | .setMode _ | .getMode | .setSwing _ | .getSwing | .setSleep _ | .getSleep
  | .setTimer _ | .getTimer | .getTimerEn | .getPacked | .loadPacked _ | .checksum _ | .capClr | .capPush _ => true

/-- The inequalities of R274, and that the two widths are those of the types. -/
def Params.wellFormed (p : Params) : Bool :=
  decide (p.tempMinC ≤ p.tempMaxC) && decide (p.tempMaxC ≤ 255)
    && decide (p.tempMinF ≤ p.tempMaxF) && decide (p.tempMaxF ≤ 255)
    && decide (p.timerMaxHours ≤ 255) && decide (p.tolerancePct ≤ 100) && decide (1 ≤ p.rawTickUs)
    && decide (p.technibelBits ≤ 64) && decide (p.fanLow < p.fanMed) && decide (p.fanMed < p.fanHigh)
    && decide (p.frameWidth = 64) && decide (p.capWidth = 32)

end Sys2Proof
end

