-- ==== Sys2Proof/Decode.lean ====
section
/-! DEFINITION. The command word (R81 to R84): decoding, total, an illegal opcode rejected by name (R85); the encoder;
the table's reading of a word. -/

namespace Sys2Proof

/-- Why a word is no command. -/
inductive DecodeError where
  /-- Raised by `decode` for an OP value that is not in R84 (R85). Safe: the step answers ERR as R85 says. -/
  | illegalOpcode (op : BitVec 8)
deriving DecidableEq, Repr

/-- OP, bits 103:96 (R81). -/
def opField (w : CommandWord) : BitVec 8 := w.extractLsb' 96 8
/-- A, bits 95:32 (R81). -/
def aField (w : CommandWord) : BitVec 64 := w.extractLsb' 32 64
/-- B, bits 31:16 (R81). -/
def bField (w : CommandWord) : BitVec 16 := w.extractLsb' 16 16
/-- C, bits 15:0 (R81). -/
def cField (w : CommandWord) : BitVec 16 := w.extractLsb' 0 16

/-- `C[0]`, the boolean of formats F and T (R82, R87). -/
def cBool (w : CommandWord) : Bool := (cField w).getLsbD 0
/-- `A[0]`, the boolean of format D (R82, R87). -/
def aBool (w : CommandWord) : Bool := (aField w).getLsbD 0
/-- `B[7:0]`, formats S and T (R82). -/
def bByte (w : CommandWord) : BitVec 8 := (bField w).extractLsb' 0 8
/-- `C[7:0]`, formats E and D (R82). -/
def cByte (w : CommandWord) : BitVec 8 := (cField w).extractLsb' 0 8
/-- `A[31:0]`, format P (R82). -/
def aEntry (w : CommandWord) : Entry := (aField w).extractLsb' 0 32

/-- The decoder: OP alone selects the command (R81), the format its operand bits (R82), all others ignored (R83); an OP
value outside R84 is illegal (R85). -/
def decode (w : CommandWord) : Except DecodeError Instr :=
  match opField w with
  | 0x01#8 => .ok .reset
  | 0x02#8 => .ok (.setPower (cBool w))
  | 0x03#8 => .ok .getPower
  | 0x04#8 => .ok (.setTempUnit (cBool w))
  | 0x05#8 => .ok .getTempUnit
  | 0x06#8 => .ok (.setTemp (bByte w) (cBool w))
  | 0x07#8 => .ok (.setTempCur (bByte w))
  | 0x08#8 => .ok .getTemp
  | 0x09#8 => .ok (.setFan (bByte w))
  | 0x0A#8 => .ok .getFan
  | 0x0B#8 => .ok (.setMode (bByte w))
  | 0x0C#8 => .ok .getMode
  | 0x0D#8 => .ok (.setSwing (cBool w))
  | 0x0E#8 => .ok .getSwing
  | 0x0F#8 => .ok (.setSleep (cBool w))
  | 0x10#8 => .ok .getSleep
  | 0x11#8 => .ok (.setTimer (bField w))
  | 0x12#8 => .ok .getTimer
  | 0x13#8 => .ok .getTimerEn
  | 0x14#8 => .ok .getPacked
  | 0x15#8 => .ok (.loadPacked (aField w))
  | 0x20#8 => .ok (.checksum (aField w))
  | 0x21#8 => .ok (.encode (aField w) (bField w) (cByte w))
  | 0x22#8 => .ok (.decode (aBool w) (bField w) (cByte w))
  | 0x23#8 => .ok .capClr
  | 0x24#8 => .ok (.capPush (aEntry w))
  | op => .error (.illegalOpcode op)

/-- A command word from its four fields (R81). -/
def assembleWord (op : BitVec 8) (a : BitVec 64) (b c : BitVec 16) : CommandWord := op ++ a ++ b ++ c

/-- A one-bit operand in a 16-bit field (R87). -/
def boolField (b : Bool) : BitVec 16 := (BitVec.ofBool b).setWidth 16

/-- The OP value of each command (R84). -/
def opcode : Instr → BitVec 8
  | .reset => 0x01#8
  | .setPower _ => 0x02#8
  | .getPower => 0x03#8
  | .setTempUnit _ => 0x04#8
  | .getTempUnit => 0x05#8
  | .setTemp _ _ => 0x06#8
  | .setTempCur _ => 0x07#8
  | .getTemp => 0x08#8
  | .setFan _ => 0x09#8
  | .getFan => 0x0A#8
  | .setMode _ => 0x0B#8
  | .getMode => 0x0C#8
  | .setSwing _ => 0x0D#8
  | .getSwing => 0x0E#8
  | .setSleep _ => 0x0F#8
  | .getSleep => 0x10#8
  | .setTimer _ => 0x11#8
  | .getTimer => 0x12#8
  | .getTimerEn => 0x13#8
  | .getPacked => 0x14#8
  | .loadPacked _ => 0x15#8
  | .checksum _ => 0x20#8
  | .encode _ _ _ => 0x21#8
  | .decode _ _ _ => 0x22#8
  | .capClr => 0x23#8
  | .capPush _ => 0x24#8

/-- The encoder: the operands at the places of R82, "Unused operand bits are written as zero" (R90). -/
def encode (i : Instr) : CommandWord :=
  match i with
  | .setPower b | .setTempUnit b | .setSwing b | .setSleep b => assembleWord (opcode i) 0 0 (boolField b)
  | .setTemp d f => assembleWord (opcode i) 0 (d.setWidth 16) (boolField f)
  | .setTempCur v | .setFan v | .setMode v => assembleWord (opcode i) 0 (v.setWidth 16) 0
  | .setTimer m => assembleWord (opcode i) 0 m 0
  | .loadPacked v | .checksum v => assembleWord (opcode i) v 0 0
  | .encode v r n => assembleWord (opcode i) v r (n.setWidth 16)
  | .decode s o n => assembleWord (opcode i) ((BitVec.ofBool s).setWidth 64) o (n.setWidth 16)
  | .capPush d => assembleWord (opcode i) (d.setWidth 64) 0 0
  | .reset | .getPower | .getTempUnit | .getTemp | .getFan | .getMode | .getSwing | .getSleep | .getTimer
  | .getTimerEn | .getPacked | .capClr => assembleWord (opcode i) 0 0 0

/-- A row of spec/opcode_table.json as a command word: the table numbers the 104 bits as R81 does, so the word is the
number; bits above `nbits` are 0 (log entry 15). -/
def tableWord (nbits w : Nat) : CommandWord := BitVec.ofNat 104 (w % 2 ^ nbits)

/-- What the decoder reads from a word numbered as spec/opcode_table.json numbers it. -/
def decodeTableWord (nbits w : Nat) : Option Instr :=
  match decode (tableWord nbits w) with
  | .ok i => some i
  | .error _ => none

end Sys2Proof
end

