-- ==== Sys2Proof/Machine/State.lean ====
section
/-! DEFINITION. The state of the block (R20), the response record (R92), why a command or a step ends otherwise than OK,
and the state after hardware reset (R51, R260). -/

namespace Sys2Proof.Machine

/-- MARK: carrier on; SPACE: carrier off (R47, R181). -/
inductive Level where
  | mark
  | space
deriving DecidableEq, Repr

/-- One segment of TX: level, duration in µs, and the attributes every segment carries (R47, R181). -/
structure Segment where
  level : Level
  durationUs : BitVec 32
  carrierHz : Nat
  dutyPct : Nat
deriving DecidableEq, Repr

/-- STATUS of a response (R92); the code 3 is never produced, so it is no value here. -/
inductive Status where
  | ok
  | fail
  | err
deriving DecidableEq, Repr

/-- The response record of R92. -/
structure Response where
  status : Status
  val : BitVec 64
  bits : BitVec 8
  proto : BitVec 16
  addr : BitVec 32
  cmd : BitVec 32
deriving DecidableEq, Repr

/-- The causes of FAIL, R231; not visible in the response (R214). -/
inductive FailCause where
  | tooShort | strictBitCount | hdrMark | hdrSpace | bitMark | bitSpace | footerMark | gap | checksum
deriving DecidableEq, Repr

/-- The causes of ERR, R232; not visible in the response. -/
inductive ErrCause where
  | illegalOpcode | illegalBitCount | capOverflow
deriving DecidableEq, Repr

/-- Where the machine stops. None is reachable from a state that meets `MachineInv` (Sys2Proof/Safety.lean). -/
inductive Fault where
  /-- Raised by `capRead` at an index that is not below CAP_LEN: "A model must give CapRead(i) with i >= CAP_LEN no value
  (fault), not zero" (R62, U8). Safe. -/
  | capReadInvalid (index : Nat)
  /-- Raised by `capRead` below CAP_LEN at an entry nothing has written since hardware reset, whose contents are
  unspecified (R46, U8); log entry 5. Safe. -/
  | capReadUnspecified (index : Nat)
  /-- Raised by `capWrite` at an index that does not exist, CAP being indexed 0..CAP_DEPTH-1 (R46, R63). Safe. -/
  | capWriteNoSuchEntry (index : Nat)
deriving DecidableEq, Repr

/-- Where the model has no meaning for a command. -/
inductive Refusal where
  /-- Raised by an arm of `exec` whose command has no meaning yet (no arm at present). Safe. -/
  | notModelled (mnemonic : String)
deriving DecidableEq, Repr

/-- How the pseudocode of a command ends otherwise than by `respond(OK, …)`: `err(cause)`, `fail(cause)` (R7), or a
stop of the model. -/
inductive Stop where
  | err (cause : ErrCause)
  | fail (cause : FailCause)
  | fault (f : Fault)
deriving DecidableEq, Repr

/-- CAP (R46): the entries written since hardware reset, by index, indices strictly rising; an unlisted index has no
value (log entry 5). -/
abbrev Memory := List (Nat × Entry)

/-- What the outside gives the block: a command word on the command port (R80), or the hardware reset (R260). -/
inductive Input where
  | command (w : CommandWord)
  | hardReset
deriving DecidableEq, Repr

/-- The state of the block, R20, and the model's own two fields `inputs` and `responses` (log entries 1 and 2). -/
structure State where
  /-- FRAME (R21, R22). -/
  frame : Frame
  /-- SAVED_TEMP (R42). -/
  savedTemp : BitVec 8
  /-- SAVED_UNIT, true = Fahrenheit (R43). -/
  savedUnit : Bool
  /-- CAP (R46). -/
  cap : Memory
  /-- CAP_LEN (R46). -/
  capLen : BitVec 16
  /-- TX: every segment emitted since hardware reset, oldest first (R47). -/
  tx : List Segment
  /-- The model's own: what the outside still has to present, oldest first. -/
  inputs : List Input
  /-- The model's own: the responses produced since hardware reset, oldest first (R92). -/
  responses : List Response
deriving DecidableEq, Repr

/-- The state after hardware reset (R51, R260). -/
def State.reset : State where
  frame := 0x0000010114000000#64
  savedTemp := 20#8
  savedUnit := false
  cap := []
  capLen := 0#16
  tx := []
  inputs := []
  responses := []

/-- Where the block's next action comes from. -/
inductive Fetched where
  /-- Nothing is presented: the block is idle (R80). -/
  | idle
  /-- The hardware reset is asserted. -/
  | hardReset (s : State)
  /-- A command word is accepted. -/
  | command (w : CommandWord) (s : State)
deriving DecidableEq, Repr

end Sys2Proof.Machine
end

