-- ==== Sys2Proof/Machine/Operands.lean ====
section
/-! DEFINITION. Bit-field access (R7, R21), the named fields of FRAME (R22), and the state validator's functions
`tempclamp`, `fannorm`, `modenorm` (R134, R137, R141) and the timer's arithmetic (R146, R147). -/

namespace Sys2Proof.Machine

/-- `getbits(v, o, w) = (v >> o) mod 2^w` (R7). -/
def getbits (v : Frame) (o w : Nat) : BitVec w := v.extractLsb' o w

/-- The bits `o+w-1:o` of a frame, as ones. -/
def fieldMask (o w : Nat) : Frame := (BitVec.allOnes w).setWidth 64 <<< o

/-- `setbits(v, o, w, d)`: `v` with bits `o+w-1:o` replaced by `d`, other bits unchanged (R7). -/
def setbits (v : Frame) (o w : Nat) (d : BitVec w) : Frame :=
  (v &&& ~~~(fieldMask o w)) ||| (d.setWidth 64 <<< o)

/-- `zext_64` (R7). -/
def zext64 {n : Nat} (v : BitVec n) : BitVec 64 := v.setWidth 64

/-- A boolean as the one-bit value that stands for it (R39). -/
def bit (b : Bool) : BitVec 1 := BitVec.ofBool b

def getPowerBit (v : Frame) : BitVec 1 := getbits v Layout.power.offset 1
def getUnitF (v : Frame) : BitVec 1 := getbits v Layout.unitF.offset 1
def getSwingBit (v : Frame) : BitVec 1 := getbits v Layout.swing.offset 1
def getSleepBit (v : Frame) : BitVec 1 := getbits v Layout.sleep.offset 1
def getTimerEnBit (v : Frame) : BitVec 1 := getbits v Layout.timerEn.offset 1
def getModeField (v : Frame) : BitVec 4 := getbits v Layout.mode.offset 4
def getFanField (v : Frame) : BitVec 4 := getbits v Layout.fan.offset 4
def getTempField (v : Frame) : BitVec 8 := getbits v Layout.temp.offset 8
def getTimerHours (v : Frame) : BitVec 8 := getbits v Layout.timerHours.offset 8
def getHeader (v : Frame) : BitVec 8 := getbits v Layout.header.offset 8
def getSum (v : Frame) : BitVec 8 := getbits v Layout.sum.offset 8

def setPowerBit (v : Frame) (b : Bool) : Frame := setbits v Layout.power.offset 1 (bit b)
def setUnitF (v : Frame) (b : Bool) : Frame := setbits v Layout.unitF.offset 1 (bit b)
def setSwingBit (v : Frame) (b : Bool) : Frame := setbits v Layout.swing.offset 1 (bit b)
def setSleepBit (v : Frame) (b : Bool) : Frame := setbits v Layout.sleep.offset 1 (bit b)
def setTimerEnBit (v : Frame) (b : Bool) : Frame := setbits v Layout.timerEn.offset 1 (bit b)
def setModeField (v : Frame) (d : Nat) : Frame := setbits v Layout.mode.offset 4 (BitVec.ofNat 4 d)
def setFanField (v : Frame) (d : Nat) : Frame := setbits v Layout.fan.offset 4 (BitVec.ofNat 4 d)
def setTempField (v : Frame) (d : BitVec 8) : Frame := setbits v Layout.temp.offset 8 d
def setTimerHours (v : Frame) (d : Nat) : Frame := setbits v Layout.timerHours.offset 8 (BitVec.ofNat 8 d)
def setHeader (v : Frame) (d : BitVec 8) : Frame := setbits v Layout.header.offset 8 d
def setSum (v : Frame) (d : BitVec 8) : Frame := setbits v Layout.sum.offset 8 d

/-- The unit bit of FRAME as a boolean, 1 = Fahrenheit (R30, R39). -/
def unitOf (v : Frame) : Bool := getUnitF v == 1#1

/-- `tempclamp(d, f)` (R134). -/
def tempclamp (p : Params) (d : Nat) (f : Bool) : Nat :=
  if f then clamp d p.tempMinF p.tempMaxF else clamp d p.tempMinC p.tempMaxC

/-- `fannorm(s, m)` (R137): the Dry override first, then the bounds, then the default arm for a value inside the bounds
that is no fan speed (with the codes of R38 only 3), then the speed itself. -/
def fannorm (p : Params) (s m : Nat) : Nat :=
  let s1 := if m = p.modeDry ∧ s ≠ p.fanLow then p.fanLow else s
  if s1 > p.fanHigh then p.fanHigh
  else if s1 < p.fanLow then p.fanLow
  else if s1 = p.fanLow ∨ s1 = p.fanMed ∨ s1 = p.fanHigh then s1
  else p.fanLow

/-- `modenorm(m)` (R141): every value that is none of the four codes gives Cool. -/
def modenorm (p : Params) (m : Nat) : Nat :=
  if m = p.modeCool ∨ m = p.modeDry ∨ m = p.modeFan ∨ m = p.modeHeat then m else p.modeCool

/-- `minutes div 60` (R146). -/
def wholeHours (minutes : Nat) : Nat := minutes / 60

/-- `min(hours, TIMER_MAX_HOURS)` (R146). -/
def clampHours (p : Params) (hours : Nat) : Nat := min hours p.timerMaxHours

/-- What GETTIMER answers for a frame (R147): 0 if the timer is disabled, else hours × 60. -/
def timerMinutes (v : Frame) : Nat :=
  if getTimerEnBit v = 0#1 then 0 else (getTimerHours v).toNat * 60

end Sys2Proof.Machine
end

