-- ==== Sys2Proof/Machine/Flags.lean ====
section
/-! DEFINITION. The computed bits of the block: the response record with its status (R92, R230), the derived
timer-enable bit (R31, R146), the checksum (R166). -/

namespace Sys2Proof.Machine

/-- The code of a status in the response (R92). -/
def Status.code : Status → BitVec 2
  | .ok => 0#2
  | .fail => 1#2
  | .err => 2#2

/-- `respond(OK, VAL = v)`: every other field 0 (R92). -/
def Response.okVal (v : BitVec 64) : Response :=
  { status := .ok, val := v, bits := 0#8, proto := 0#16, addr := 0#32, cmd := 0#32 }

/-- A successful DECODE (R212). -/
def Response.decoded (p : Params) (v : Frame) (n : BitVec 8) : Response :=
  { status := .ok, val := v, bits := n, proto := p.protocolId, addr := 0#32, cmd := 0#32 }

/-- `fail(cause)`: every cause gives the same response, every other field 0 (R214, R231). -/
def Response.failed (_cause : FailCause) : Response :=
  { status := .fail, val := 0#64, bits := 0#8, proto := 0#16, addr := 0#32, cmd := 0#32 }

/-- `err(cause)`: every cause gives the same response, every other field 0 (R232). -/
def Response.erred (_cause : ErrCause) : Response :=
  { status := .err, val := 0#64, bits := 0#8, proto := 0#16, addr := 0#32, cmd := 0#32 }

/-- The response as the 154-bit record of R92: STATUS 153:152, VAL 151:88, BITS 87:80, PROTO 79:64, ADDR 63:32,
CMD 31:0. -/
def Response.record (r : Response) : BitVec 154 :=
  r.status.code ++ r.val ++ r.bits ++ r.proto ++ r.addr ++ r.cmd

/-- TIMER_EN: "1 if hours > 0 else 0", on the hours before the clamp (R146). -/
def timerEnabled (hours : Nat) : Bool := decide (hours > 0)

/-- The offsets of the checksummed bytes: from the timer field, step 8, up to the header field (R166). -/
def checksumOffsets : List Nat := [16, 24, 32, 40]

/-- The sum, modulo 256, of the bytes at the given offsets. -/
def byteSum (v : Frame) (offsets : List Nat) : BitVec 8 :=
  offsets.foldl (fun s o => s + getbits v o 8) 0#8

/-- `checksum(v)` (R166): the sum of the four data bytes, inverted, plus one, all in 8 bits. -/
def checksum (v : Frame) : BitVec 8 := ~~~(byteSum v checksumOffsets) + 1#8

end Sys2Proof.Machine
end

