-- ==== Sys2Proof/Machine/Ops.lean ====
section
/-! DEFINITION. The operations on the state: registers, the capture buffer (R62, R63), the transmit stream (R47), the
end of a command, OK or otherwise (R7, R230 to R237), the hardware reset (R260), and taking what the outside presents
(R80). -/

namespace Sys2Proof.Machine

/-- What the machine's functions answer. -/
abbrev Result := Host.Outcome State Fault Refusal

/-! ## Registers -/

/-- `FRAME <- v` (R7). -/
def State.writeFrame (s : State) (v : Frame) : State := { s with frame := v }

/-- `SAVED_TEMP <- t ; SAVED_UNIT <- f` (R131). -/
def State.writeSaved (s : State) (t : BitVec 8) (f : Bool) : State := { s with savedTemp := t, savedUnit := f }

/-- The steps of the temperature setter, R131, for the unit `f`; SETTEMPCUR (R132) and SETMODE's third step (R140) run
them too. -/
def State.applyTemp (p : Params) (s : State) (degrees : Nat) (f : Bool) : State :=
  let t := BitVec.ofNat 8 (tempclamp p degrees f)
  let s1 := s.writeFrame (setUnitF s.frame f)
  let s2 := s1.writeSaved t f
  s2.writeFrame (setTempField s2.frame t)

/-- The step of the fan setter, R136, with the mode field as it is now; SETMODE's second step (R140) runs it too. -/
def State.applyFan (p : Params) (s : State) (speed : Nat) : State :=
  s.writeFrame (setFanField s.frame (fannorm p speed (getModeField s.frame).toNat))

/-- SETMODE's first step (R140). -/
def State.applyMode (p : Params) (s : State) (mode : Nat) : State :=
  s.writeFrame (setModeField s.frame (modenorm p mode))

/-! ## The capture buffer -/

/-- The entry listed for an index, if any. -/
def Memory.read : Memory → Nat → Option Entry
  | [], _ => none
  | (j, v) :: m, i => if i = j then some v else Memory.read m i

/-- The memory with index `i` holding `v`, in canonical form. -/
def Memory.write : Memory → Nat → Entry → Memory
  | [], i, v => [(i, v)]
  | (j, u) :: m, i, v =>
    if i < j then (i, v) :: (j, u) :: m
    else if i = j then (i, v) :: m
    else (j, u) :: Memory.write m i v

/-- The indices rise strictly from above `b`. -/
def Memory.risesFrom (b : Nat) : Memory → Bool
  | [] => true
  | (j, _) :: m => decide (b ≤ j) && Memory.risesFrom (j + 1) m

/-- The canonical form of CAP: indices strictly rising. An unlisted index has no value, so no entry can equal what an
unlisted index reads as. -/
def Memory.wf (m : Memory) : Bool := Memory.risesFrom 0 m

/-- `CapRead(i)` (R62): a value for `0 <= i < CAP_LEN`, a fault elsewhere. -/
def capRead (s : State) (i : Nat) : Except Stop Entry :=
  if i < s.capLen.toNat then
    match Memory.read s.cap i with
    | some v => .ok v
    | none => .error (.fault (.capReadUnspecified i))
  else .error (.fault (.capReadInvalid i))

/-- `CapWrite(i, v)` (R63), at an index of 0..CAP_DEPTH-1 (R46). -/
def capWrite (p : Params) (s : State) (i : Nat) (v : Entry) : Except Stop State :=
  if i < p.capDepth then .ok { s with cap := Memory.write s.cap i v }
  else .error (.fault (.capWriteNoSuchEntry i))

/-- `CAP_LEN <- n`. -/
def State.writeCapLen (s : State) (n : BitVec 16) : State := { s with capLen := n }

/-! ## The transmit stream -/

/-- A level and a duration in µs, before it is emitted. -/
abbrev Pulse := Level × Nat

/-- The segment that `emit(level, d)` appends: with the fixed carrier attributes (R47, R181). -/
def segmentOf (p : Params) (x : Pulse) : Segment :=
  { level := x.1, durationUs := BitVec.ofNat 32 x.2, carrierHz := p.carrierHz, dutyPct := p.dutyPct }

/-- `emit(level, d)` for each pulse, in order (R7, R184). -/
def State.emitAll (p : Params) (s : State) (xs : List Pulse) : State :=
  { s with tx := s.tx ++ xs.map (segmentOf p) }

/-! ## The end of a command -/

/-- `respond(…)`: the command's one response (R92). -/
def State.respond (s : State) (r : Response) : State := { s with responses := s.responses ++ [r] }

/-- A command that ends OK with a value and no other effect than the state it has reached. -/
def State.answer (s : State) (v : BitVec 64) : Result := .next (s.respond (Response.okVal v))

/-- Taking FAIL or ERR, the block's only exceptions (R230): nothing is saved, no register, memory or mode changes,
control goes nowhere, the response is the only effect (R237); a fault stops the machine. There is no return from them
(R238). -/
def State.takeStop (s : State) : Stop → Result
  | .err c => .next (s.respond (Response.erred c))
  | .fail c => .next (s.respond (Response.failed c))
  | .fault f => .fault f

/-- The end of a command that started in `s`: the state it reached and its response, or how it stopped. -/
def State.conclude (s : State) : Except Stop (State × Response) → Result
  | .ok (t, r) => .next (t.respond r)
  | .error x => s.takeStop x

/-! ## The outside -/

/-- Hardware reset (R260): every piece of state to the values of R51; what the outside still has to present stays. -/
def State.hardwareReset (s : State) : State := { State.reset with inputs := s.inputs }

/-- Taking the next thing the outside presents. -/
def fetch (s : State) : Fetched :=
  match s.inputs with
  | [] => .idle
  | .hardReset :: rest => .hardReset { s with inputs := rest }
  | .command w :: rest => .command w { s with inputs := rest }

/-- What the block does with a word that is no command (R85): `err(ILLEGAL_OPCODE)`, no operand examined (R236). -/
def rejectWord (e : DecodeError) (s : State) : Result :=
  match e with
  | .illegalOpcode _ => s.takeStop (.err .illegalOpcode)

end Sys2Proof.Machine
end

