-- ==== Sys2Proof/Machine/FieldAccess.lean ====
section
/-! DEFINITION. 40_field_access.md: the single-bit field commands (R110 to R118). -/

namespace Sys2Proof.Machine

/-- SETPOWER (R111). -/
def execSetPower (b : Bool) (s : State) : Result := (s.writeFrame (setPowerBit s.frame b)).answer 0#64

/-- GETPOWER (R112). -/
def execGetPower (s : State) : Result := s.answer (zext64 (getPowerBit s.frame))

/-- SETTEMPUNIT (R113): FRAME bit 38 only; TEMP and the saved pair stay. -/
def execSetTempUnit (f : Bool) (s : State) : Result := (s.writeFrame (setUnitF s.frame f)).answer 0#64

/-- GETTEMPUNIT (R114): FRAME bit 38, not SAVED_UNIT. -/
def execGetTempUnit (s : State) : Result := s.answer (zext64 (getUnitF s.frame))

/-- SETSWING (R115). -/
def execSetSwing (b : Bool) (s : State) : Result := (s.writeFrame (setSwingBit s.frame b)).answer 0#64

/-- GETSWING (R116). -/
def execGetSwing (s : State) : Result := s.answer (zext64 (getSwingBit s.frame))

/-- SETSLEEP (R117). -/
def execSetSleep (b : Bool) (s : State) : Result := (s.writeFrame (setSleepBit s.frame b)).answer 0#64

/-- GETSLEEP (R118). -/
def execGetSleep (s : State) : Result := s.answer (zext64 (getSleepBit s.frame))

end Sys2Proof.Machine
end

