-- ==== Sys2Proof/Machine/FramePacking.lean ====
section
/-! DEFINITION. 42_frame_packing.md: RESET, GETPACKED, LOADPACKED, CHECKSUM (R160 to R168). -/

namespace Sys2Proof.Machine

/-- The frame of the default configuration: POWER 0, MODE 1, FAN 1, TEMP 20, every other bit 0 (R160). -/
def defaultFrame : Frame := 0x0000010114000000#64

/-- RESET (R160): FRAME and the saved pair; CAP, CAP_LEN and TX stay. -/
def execReset (s : State) : Result :=
  ((s.writeFrame defaultFrame).writeSaved (BitVec.ofNat 8 Config.machine.defaultTemp) false).answer 0#64

/-- The two stamps of a read-out: HEADER_CONST, then the checksum (R163). -/
def stampFrame (p : Params) (v : Frame) : Frame :=
  let h := setHeader v (BitVec.ofNat 8 p.headerConst)
  setSum h (checksum h)

/-- GETPACKED (R163): the stamps go to the stored register. -/
def execGetPacked (s : State) : Result :=
  let s1 := s.writeFrame (stampFrame Config.machine s.frame)
  s1.answer s1.frame

/-- LOADPACKED (R165): the frame verbatim, nothing else. -/
def execLoadPacked (value : Frame) (s : State) : Result := (s.writeFrame value).answer 0#64

/-- CHECKSUM (R167): of the operand, not of FRAME. -/
def execChecksum (value : Frame) (s : State) : Result := s.answer (zext64 (checksum value))

end Sys2Proof.Machine
end

