-- ==== Sys2Proof/Machine/PulseDecoder.lean ====
section
/-! DEFINITION. 44_pulse_decoder.md: the capture buffer's commands and the pulse matcher (R200 to R214). -/

namespace Sys2Proof.Machine

/-- CAPCLR (R200): the entries keep their contents but become invalid. -/
def execCapClr (s : State) : Result := (s.writeCapLen 0#16).answer 0#64

/-- CAPPUSH's pseudocode (R201). -/
def capPushCommand (p : Params) (s : State) (duration : Entry) : Except Stop (State × Response) :=
  if s.capLen.toNat = p.capDepth then .error (.err .capOverflow)
  else
    match capWrite p s s.capLen.toNat duration with
    | .error x => .error x
    | .ok t => .ok (t.writeCapLen (s.capLen + 1#16), Response.okVal 0#64)

/-- CAPPUSH (R201). -/
def execCapPush (duration : Entry) (s : State) : Result := s.conclude (capPushCommand Config.machine s duration)

/-! ## The matcher -/

/-- `us(m)`, the measured duration an entry stands for (R202). -/
def entryUs (p : Params) (m : Entry) : Nat := m.toNat * p.rawTickUs

/-- `lo(d)` (R205). -/
def windowLo (p : Params) (d : Nat) : Nat := d * (100 - p.tolerancePct) / 100

/-- `hi(d)` (R205). -/
def windowHi (p : Params) (d : Nat) : Nat := d * (100 + p.tolerancePct) / 100 + 1

/-- `match(m, d)` (R205): both ends included. -/
def matchWindow (p : Params) (m : Entry) (d : Nat) : Bool :=
  decide (windowLo p d ≤ entryUs p m) && decide (entryUs p m ≤ windowHi p d)

/-- `matchMark(m, d)` (R205). -/
def matchMark (p : Params) (m : Entry) (d : Nat) : Bool := matchWindow p m (d + p.markExcessUs)

/-- `matchSpace(m, d)` (R205): `d - excess`, never below 0. -/
def matchSpace (p : Params) (m : Entry) (d : Nat) : Bool := matchWindow p m (d - p.markExcessUs)

/-- `matchAtLeast(m, d)` (R206): an entry of 0 matches; no upper bound. -/
def matchAtLeast (p : Params) (m : Entry) (d : Nat) : Bool :=
  decide (m = 0#32) || decide (windowLo p d ≤ entryUs p m)

/-! ## DECODE -/

/-- `if not b: fail(c)`. -/
def require (c : FailCause) (b : Bool) : Except Stop Unit :=
  if b then .ok () else .error (.fail c)

/-- Read an entry and require that it is in a mark's window. -/
def expectMark (p : Params) (s : State) (i d : Nat) (c : FailCause) : Except Stop Unit :=
  match capRead s i with
  | .error x => .error x
  | .ok m => require c (matchMark p m d)

/-- Read an entry and require that it is in a space's window. -/
def expectSpace (p : Params) (s : State) (i d : Nat) (c : FailCause) : Except Stop Unit :=
  match capRead s i with
  | .error x => .error x
  | .ok m => require c (matchSpace p m d)

/-- What the space of a bit says: the one-space test first (R209). -/
def bitOfSpace (p : Params) (sp : Entry) : Except Stop Bool :=
  if matchSpace p sp p.oneSpaceUs then .ok true
  else if matchSpace p sp p.zeroSpaceUs then .ok false
  else .error (.fail .bitSpace)

/-- Bit `k` of the capture at `o`: both entries of the pair, the mark's test, then the space's (R207 step 6, R209). -/
def readBit (p : Params) (s : State) (o k : Nat) : Except Stop Bool :=
  match capRead s (o + 2 + 2 * k), capRead s (o + 3 + 2 * k) with
  | .error x, _ => .error x
  | .ok _, .error x => .error x
  | .ok mk, .ok sp =>
    match require .bitMark (matchMark p mk p.bitMarkUs) with
    | .error x => .error x
    | .ok () => bitOfSpace p sp

/-- Bits 0 to `n-1`, in that order, `v = v + 2^k` for each one (R207 step 6). -/
def readBits (p : Params) (s : State) (o : Nat) : Nat → Except Stop Nat
  | 0 => .ok 0
  | k + 1 =>
    match readBits p s o k with
    | .error x => .error x
    | .ok v =>
      match readBit p s o k with
      | .error x => .error x
      | .ok b => .ok (if b then v + 2 ^ k else v)

/-- The trailing gap (R207 step 8, R211): tested only if the buffer holds an entry after the footer mark. -/
def checkGap (p : Params) (s : State) (g : Nat) : Except Stop Unit :=
  if g < s.capLen.toNat then
    match capRead s g with
    | .error x => .error x
    | .ok m => require .gap (matchAtLeast p m (min p.gapUs p.rxTimeoutUs))
  else .ok ()

/-- Step 9 (R213): under strict, and only if STRICT_VERIFIES_SUM, the low byte must be the checksum. -/
def sumAccepted (p : Params) (strict : Bool) (v : Frame) : Bool :=
  !(strict && !(getSum v == checksum v) && p.strictVerifiesSum)

/-- Steps 4 to 9 of DECODE (R207): the value the capture at `o` holds, or the first failure. -/
def matchCapture (p : Params) (s : State) (strict : Bool) (o n : Nat) : Except Stop Frame :=
  match expectMark p s o p.hdrMarkUs .hdrMark with
  | .error x => .error x
  | .ok () =>
    match expectSpace p s (o + 1) p.hdrSpaceUs .hdrSpace with
    | .error x => .error x
    | .ok () =>
      match readBits p s o n with
      | .error x => .error x
      | .ok v =>
        match expectMark p s (o + 2 + 2 * n) p.bitMarkUs .footerMark with
        | .error x => .error x
        | .ok () =>
          match checkGap p s (o + 3 + 2 * n) with
          | .error x => .error x
          | .ok () =>
            match require .checksum (sumAccepted p strict (BitVec.ofNat 64 v)) with
            | .error x => .error x
            | .ok () => .ok (BitVec.ofNat 64 v)

/-- DECODE's pseudocode (R207), steps 1 to 10: the bit count, the length (R203), strict (R204), the match, the response
(R212). The state does not change. -/
def decodeCommand (p : Params) (s : State) (strict : Bool) (o : Nat) (n : BitVec 8) : Except Stop (State × Response) :=
  if n.toNat > 64 then .error (.err .illegalBitCount)
  else if s.capLen.toNat < o + 2 * n.toNat + p.decodeOverhead then .error (.fail .tooShort)
  else if strict = true ∧ n.toNat ≠ p.technibelBits then .error (.fail .strictBitCount)
  else
    match matchCapture p s strict o n.toNat with
    | .error x => .error x
    | .ok v => .ok (s, Response.decoded p v n)

/-- DECODE (R207). -/
def execDecode (strict : Bool) (offset : BitVec 16) (bitCount : BitVec 8) (s : State) : Result :=
  s.conclude (decodeCommand Config.machine s strict offset.toNat bitCount)

end Sys2Proof.Machine
end

