-- ==== Sys2Proof/Machine/PulseEncoder.lean ====
section
/-! DEFINITION. 43_pulse_encoder.md: the pulse-sequence generator (R180 to R185). -/

namespace Sys2Proof.Machine

/-- The mark and the space of bit `k` (R182). -/
def bitPulses (p : Params) (v : Frame) (k : Nat) : List Pulse :=
  [(.mark, p.bitMarkUs), (.space, if v.getLsbD k then p.oneSpaceUs else p.zeroSpaceUs)]

/-- The pulses of bits 0 to `n-1`, least significant bit first (R182, R183). -/
def dataPulses (p : Params) (v : Frame) : Nat → List Pulse
  | 0 => []
  | n + 1 => dataPulses p v n ++ bitPulses p v n

/-- `frameSegments(v, n)` (R182): header, data, footer mark, trailing gap. -/
def frameSegments (p : Params) (v : Frame) (n : Nat) : List Pulse :=
  [(.mark, p.hdrMarkUs), (.space, p.hdrSpaceUs)] ++ dataPulses p v n ++ [(.mark, p.bitMarkUs), (.space, p.gapUs)]

/-- `passes` passes, one after the other (R184). -/
def framePasses (p : Params) (v : Frame) (n : Nat) : Nat → List Pulse
  | 0 => []
  | passes + 1 => frameSegments p v n ++ framePasses p v n passes

/-- The duration of a list of pulses in µs (R185). -/
def pulsesDuration (xs : List Pulse) : Nat := (xs.map Prod.snd).sum

/-- ENCODE's pseudocode (R184): the test before the first `emit`, then `repeatCount + 1` passes. -/
def encodeCommand (p : Params) (s : State) (v : Frame) (repeatCount bitCount : Nat) : Except Stop (State × Response) :=
  if bitCount > 64 then .error (.err .illegalBitCount)
  else .ok (s.emitAll p (framePasses p v bitCount (repeatCount + 1)), Response.okVal 0#64)

/-- ENCODE (R184): of the operand, not of FRAME; TX only. -/
def execEncode (frame : Frame) (repeatCount : BitVec 16) (bitCount : BitVec 8) (s : State) : Result :=
  s.conclude (encodeCommand Config.machine s frame repeatCount.toNat bitCount.toNat)

end Sys2Proof.Machine
end

