-- ==== Sys2Proof/Machine/Setters.lean ====
section
/-! DEFINITION. 41_interdependent_setters.md: temperature, fan, mode and timer (R130 to R148). -/

namespace Sys2Proof.Machine

/-- SETTEMP (R131). -/
def execSetTemp (degrees : BitVec 8) (fahrenheit : Bool) (s : State) : Result :=
  (s.applyTemp Config.machine degrees.toNat fahrenheit).answer 0#64

/-- SETTEMPCUR (R132): the unit is FRAME.UNIT_F, read before anything is written. -/
def execSetTempCur (degrees : BitVec 8) (s : State) : Result :=
  (s.applyTemp Config.machine degrees.toNat (unitOf s.frame)).answer 0#64

/-- GETTEMP (R133): FRAME.TEMP as stored, not SAVED_TEMP. -/
def execGetTemp (s : State) : Result := s.answer (zext64 (getTempField s.frame))

/-- SETFAN (R136). -/
def execSetFan (speed : BitVec 8) (s : State) : Result :=
  (s.applyFan Config.machine speed.toNat).answer 0#64

/-- GETFAN (R138). -/
def execGetFan (s : State) : Result := s.answer (zext64 (getFanField s.frame))

/-- SETMODE (R140): store the mode; SETFAN with the current fan field, seeing the new mode; the temperature setter with
the saved pair. -/
def execSetMode (mode : BitVec 8) (s : State) : Result :=
  let s1 := s.applyMode Config.machine mode.toNat
  let s2 := s1.applyFan Config.machine (getFanField s1.frame).toNat
  let s3 := s2.applyTemp Config.machine s2.savedTemp.toNat s2.savedUnit
  s3.answer 0#64

/-- GETMODE (R142). -/
def execGetMode (s : State) : Result := s.answer (zext64 (getModeField s.frame))

/-- SETTIMER (R146): natural-number hours, no 8-bit truncation before the clamp. -/
def execSetTimer (minutes : BitVec 16) (s : State) : Result :=
  let hours := wholeHours minutes.toNat
  let s1 := s.writeFrame (setTimerHours s.frame (clampHours Config.machine hours))
  let s2 := s1.writeFrame (setTimerEnBit s1.frame (timerEnabled hours))
  s2.answer 0#64

/-- GETTIMER (R147). -/
def execGetTimer (s : State) : Result := s.answer (BitVec.ofNat 64 (timerMinutes s.frame))

/-- GETTIMEREN (R148). -/
def execGetTimerEn (s : State) : Result := s.answer (zext64 (getTimerEnBit s.frame))

end Sys2Proof.Machine
end

