-- ==== Sys2Proof/Machine/Dispatch.lean ====
section
/-! DEFINITION. One arm per command: the meaning that runs it. -/

namespace Sys2Proof.Machine

def exec (i : Instr) (s : State) : Host.Outcome State Fault Refusal :=
  match i with
  -- 42_frame_packing.md
  | .reset => Sys2Proof.Machine.execReset s
  -- 40_field_access.md
  | .setPower b => Sys2Proof.Machine.execSetPower b s
  | .getPower => Sys2Proof.Machine.execGetPower s
  | .setTempUnit f => Sys2Proof.Machine.execSetTempUnit f s
  | .getTempUnit => Sys2Proof.Machine.execGetTempUnit s
  -- 41_interdependent_setters.md
  | .setTemp degrees fahrenheit => Sys2Proof.Machine.execSetTemp degrees fahrenheit s
  | .setTempCur degrees => Sys2Proof.Machine.execSetTempCur degrees s
  | .getTemp => Sys2Proof.Machine.execGetTemp s
  | .setFan speed => Sys2Proof.Machine.execSetFan speed s
  | .getFan => Sys2Proof.Machine.execGetFan s
  | .setMode mode => Sys2Proof.Machine.execSetMode mode s
  | .getMode => Sys2Proof.Machine.execGetMode s
  -- 40_field_access.md
  | .setSwing b => Sys2Proof.Machine.execSetSwing b s
  | .getSwing => Sys2Proof.Machine.execGetSwing s
  | .setSleep b => Sys2Proof.Machine.execSetSleep b s
  | .getSleep => Sys2Proof.Machine.execGetSleep s
  -- 41_interdependent_setters.md
  | .setTimer minutes => Sys2Proof.Machine.execSetTimer minutes s
  | .getTimer => Sys2Proof.Machine.execGetTimer s
  | .getTimerEn => Sys2Proof.Machine.execGetTimerEn s
  -- 42_frame_packing.md
  | .getPacked => Sys2Proof.Machine.execGetPacked s
  | .loadPacked value => Sys2Proof.Machine.execLoadPacked value s
  | .checksum value => Sys2Proof.Machine.execChecksum value s
  -- 43_pulse_encoder.md
  | .encode frame repeatCount bitCount => Sys2Proof.Machine.execEncode frame repeatCount bitCount s
  -- 44_pulse_decoder.md
  | .decode strict offset bitCount => Sys2Proof.Machine.execDecode strict offset bitCount s
  | .capClr => Sys2Proof.Machine.execCapClr s
  | .capPush duration => Sys2Proof.Machine.execCapPush duration s

end Sys2Proof.Machine
end

