-- ==== Sys2Proof/Machine/Step.lean ====
section
/-! DEFINITION. One step: take what the outside presents and run it, "accept, execute, respond" as one atomic step
(R80); and how a word is put where the next step takes it. -/

namespace Sys2Proof.Machine

/-- One step. With nothing presented the block is idle and nothing changes (R67, R80; log entry 3). -/
def step (s : State) : Host.Outcome State Fault Refusal :=
  match fetch s with
  | .idle => .next s
  | .hardReset t => .next t.hardwareReset
  | .command w t =>
    match decode w with
    | .ok i => exec i t
    | .error e => rejectWord e t

/-- The state with a word of spec/opcode_table.json presented next on the command port (log entry 1). -/
def State.withFetchWord (s : State) (nbits w : Nat) : State :=
  { s with inputs := .command (tableWord nbits w) :: s.inputs }

end Sys2Proof.Machine
end

