-- ==== Sys2Proof/Machine/Assembler.lean ====
section
/-! DEFINITION. The assembler's notation (R90) and the pseudo-commands (R91): what the host writes, expanded before any
word reaches the command port. Nothing here is part of a step. -/

namespace Sys2Proof.Machine

/-- An operand as it is written (R90): a number, or one of the names. -/
inductive AsmOperand where
  | num (n : Nat)
  | off | on
  | celsius | fahrenheit
  | cool | dry | fan | heat
  | low | med | high
deriving DecidableEq, Repr

/-- A written operand of `w` bits; a number that does not fit is not accepted (log entry 14). -/
def AsmOperand.number (w : Nat) : AsmOperand → Option (BitVec w)
  | .num n => if n < 2 ^ w then some (BitVec.ofNat w n) else none
  | _ => none

/-- "booleans as `0`/`1`, or `OFF`/`ON`" (R90). -/
def AsmOperand.boolean : AsmOperand → Option Bool
  | .num 0 | .off => some false
  | .num 1 | .on => some true
  | _ => none

/-- "the unit as `C` (0) or `F` (1)" (R90). -/
def AsmOperand.unit : AsmOperand → Option Bool
  | .celsius => some false
  | .fahrenheit => some true
  | o => o.boolean

/-- "modes as `COOL` (1), `DRY` (2), `FAN` (4), `HEAT` (8) or a number" (R90). -/
def AsmOperand.mode (p : Params) : AsmOperand → Option (BitVec 8)
  | .cool => some (BitVec.ofNat 8 p.modeCool)
  | .dry => some (BitVec.ofNat 8 p.modeDry)
  | .fan => some (BitVec.ofNat 8 p.modeFan)
  | .heat => some (BitVec.ofNat 8 p.modeHeat)
  | o => o.number 8

/-- "fan speeds as `LOW` (1), `MED` (2), `HIGH` (4) or a number" (R90). -/
def AsmOperand.fanSpeed (p : Params) : AsmOperand → Option (BitVec 8)
  | .low => some (BitVec.ofNat 8 p.fanLow)
  | .med => some (BitVec.ofNat 8 p.fanMed)
  | .high => some (BitVec.ofNat 8 p.fanHigh)
  | o => o.number 8

/-- What a written line stands for: one command, or one of the two host sequences of R91. -/
inductive HostOp where
  | one (i : Instr)
  | send
  | recv
deriving DecidableEq, Repr

/-- The assembler: a mnemonic and its operands in the order of R90, pseudo-commands expanded (R91). -/
def assemble (p : Params) (mnemonic : String) (ops : List AsmOperand) : Option HostOp :=
  match mnemonic, ops with
  | "RESET", [] => some (.one .reset)
  | "SETPOWER", [b] => b.boolean.map fun b => .one (.setPower b)
  | "GETPOWER", [] => some (.one .getPower)
  | "SETTEMPUNIT", [f] => f.unit.map fun f => .one (.setTempUnit f)
  | "GETTEMPUNIT", [] => some (.one .getTempUnit)
  | "SETTEMP", [d, f] => (d.number 8).bind fun d => f.unit.map fun f => .one (.setTemp d f)
  | "SETTEMPCUR", [d] => (d.number 8).map fun d => .one (.setTempCur d)
  | "GETTEMP", [] => some (.one .getTemp)
  | "SETFAN", [s] => (s.fanSpeed p).map fun s => .one (.setFan s)
  | "GETFAN", [] => some (.one .getFan)
  | "SETMODE", [m] => (m.mode p).map fun m => .one (.setMode m)
  | "GETMODE", [] => some (.one .getMode)
  | "SETSWING", [b] => b.boolean.map fun b => .one (.setSwing b)
  | "GETSWING", [] => some (.one .getSwing)
  | "SETSLEEP", [b] => b.boolean.map fun b => .one (.setSleep b)
  | "GETSLEEP", [] => some (.one .getSleep)
  | "SETTIMER", [m] => (m.number 16).map fun m => .one (.setTimer m)
  | "GETTIMER", [] => some (.one .getTimer)
  | "GETTIMEREN", [] => some (.one .getTimerEn)
  | "GETPACKED", [] => some (.one .getPacked)
  | "LOADPACKED", [v] => (v.number 64).map fun v => .one (.loadPacked v)
  | "CHECKSUM", [v] => (v.number 64).map fun v => .one (.checksum v)
  | "ENCODE", [v, n, r] =>
    (v.number 64).bind fun v => (n.number 8).bind fun n => (r.number 16).map fun r => .one (.encode v r n)
  | "DECODE", [o, n, s] =>
    (o.number 16).bind fun o => (n.number 8).bind fun n => s.boolean.map fun s => .one (.decode s o n)
  | "CAPCLR", [] => some (.one .capClr)
  | "CAPPUSH", [d] => (d.number 32).map fun d => .one (.capPush d)
  | "ON", [] => some (.one (.setPower true))
  | "OFF", [] => some (.one (.setPower false))
  | "SETTEMP", [d] => (d.number 8).map fun d => .one (.setTempCur d)
  | "TIMEROFF", [] => some (.one (.setTimer 0#16))
  | "SEND", [] => some .send
  | "RECV", [] => some .recv
  | _, _ => none

/-- The second command of `SEND` and of `RECV`, from the response to the first (R91). -/
def HostOp.second (p : Params) : HostOp → Response → Option Instr
  | .one _, _ => none
  | .send, r => some (.encode r.val 0#16 (BitVec.ofNat 8 p.technibelBits))
  | .recv, r => if r.status = .ok then some (.loadPacked r.val) else none

/-- The first command of a host operation (R91). -/
def HostOp.first (p : Params) : HostOp → Instr
  | .one i => i
  | .send => .getPacked
  | .recv => .decode true 0#16 (BitVec.ofNat 8 p.technibelBits)

/-- A host operation run to its end: the first command, then, from its response, the second if there is one (R91). -/
def HostOp.run (p : Params) (h : HostOp) (s : State) : Result :=
  match exec (h.first p) s with
  | .next t =>
    match t.responses.getLast?.bind (h.second p) with
    | some i => exec i t
    | none => .next t
  | .fault f => .fault f
  | .refused r => .refused r

end Sys2Proof.Machine
end

