-- ==== Sys2Proof/Safety.lean ====
section
/-! DEFINITION. What counts as a safe run, and the terms claims are stated in: the invariant, the validator's predicates
(R150, R168), a frame's fields as numbers (R7), what a capture holds (R207, R215), what ENCODE emits (R182). -/

namespace Sys2Proof.Machine

/-! ## Words and fields, as numbers -/

/-- `getbits(v, o, w) = (v >> o) mod 2^w`, on naturals (R7). -/
def fieldAt (v : Frame) (o w : Nat) : Nat := (v.toNat >>> o) % 2 ^ w

/-- The bits of `v'` outside `o+w-1:o` are those of `v`. -/
def AgreeOutside (o w : Nat) (v v' : Frame) : Prop :=
  ∀ k, k < o ∨ o + w ≤ k → v'.getLsbD k = v.getLsbD k

/-- Every word whose OP is `op` decodes to the command that `f` reads from it (R81, R84). -/
def DecodesAs (op : Nat) (f : CommandWord → Instr) : Prop :=
  ∀ w : CommandWord, w.toNat / 2 ^ 96 = op → decode w = .ok (f w)

/-- The OP values of R84. -/
def LegalOpcode (op : Nat) : Prop := (1 ≤ op ∧ op ≤ 0x15) ∨ (0x20 ≤ op ∧ op ≤ 0x24)

/-- The bits of the command word that a command's format uses: OP and the operands (R82), field by field. -/
def usedBits : Instr → CommandWord
  | .setPower _ | .setTempUnit _ | .setSwing _ | .setSleep _ => assembleWord 0xFF#8 0#64 0#16 0x0001#16
  | .setTemp _ _ => assembleWord 0xFF#8 0#64 0x00FF#16 0x0001#16
  | .setTempCur _ | .setFan _ | .setMode _ => assembleWord 0xFF#8 0#64 0x00FF#16 0#16
  | .setTimer _ => assembleWord 0xFF#8 0#64 0xFFFF#16 0#16
  | .loadPacked _ | .checksum _ => assembleWord 0xFF#8 0xFFFFFFFFFFFFFFFF#64 0#16 0#16
  | .encode _ _ _ => assembleWord 0xFF#8 0xFFFFFFFFFFFFFFFF#64 0xFFFF#16 0x00FF#16
  | .decode _ _ _ => assembleWord 0xFF#8 0x0000000000000001#64 0xFFFF#16 0x00FF#16
  | .capPush _ => assembleWord 0xFF#8 0x00000000FFFFFFFF#64 0#16 0#16
  | .reset | .getPower | .getTempUnit | .getTemp | .getFan | .getMode | .getSwing | .getSleep | .getTimer
  | .getTimerEn | .getPacked | .capClr => assembleWord 0xFF#8 0#64 0#16 0#16

/-! ## Frames -/

/-- `Consistent(FRAME)` (R150). -/
structure Consistent (v : Frame) : Prop where
  mode : fieldAt v 40 4 = 1 ∨ fieldAt v 40 4 = 2 ∨ fieldAt v 40 4 = 4 ∨ fieldAt v 40 4 = 8
  fan : fieldAt v 32 4 = 1 ∨ fieldAt v 32 4 = 2 ∨ fieldAt v 32 4 = 4
  dryLow : fieldAt v 40 4 = 2 → fieldAt v 32 4 = 1
  hours : fieldAt v 16 8 ≤ 24
  timerEn : fieldAt v 39 1 = 1 ↔ 0 < fieldAt v 16 8
  temp : if fieldAt v 38 1 = 1 then 61 ≤ fieldAt v 24 8 ∧ fieldAt v 24 8 ≤ 86
    else 16 ≤ fieldAt v 24 8 ∧ fieldAt v 24 8 ≤ 30

/-- The sum of the four data bytes, on naturals (R166, R169). -/
def dataSum (v : Frame) : Nat := fieldAt v 16 8 + fieldAt v 24 8 + fieldAt v 32 8 + fieldAt v 40 8

/-- The checksum as a number: `(256 - s) mod 256` for the sum modulo 256 (R166). -/
def checksumNat (v : Frame) : Nat := (256 - dataSum v % 256) % 256

/-- `FrameValid(v)` (R168). -/
def FrameValid (v : Frame) : Prop := fieldAt v 48 8 = 0x18 ∧ fieldAt v 0 8 = checksumNat v

/-! ## The invariant -/

/-- `SavedConsistent` (R150): SAVED_TEMP is a clamped value for SAVED_UNIT. -/
def SavedConsistent (s : State) : Prop :=
  if s.savedUnit then 61 ≤ s.savedTemp.toNat ∧ s.savedTemp.toNat ≤ 86
  else 16 ≤ s.savedTemp.toNat ∧ s.savedTemp.toNat ≤ 30

/-- The invariant of the machine: CAP_LEN is at most CAP_DEPTH and every entry below it has a value (R46, R62), CAP is
in canonical form within its depth, and the saved pair is consistent (R151). -/
structure MachineInv (s : State) : Prop where
  capLen_le : s.capLen.toNat ≤ 1024
  cap_wf : Memory.wf s.cap = true
  cap_depth : ∀ i v, Memory.read s.cap i = some v → i < 1024
  cap_filled : ∀ i, i < s.capLen.toNat → ∃ v, Memory.read s.cap i = some v
  saved : SavedConsistent s

/-! ## Captures -/

/-- The valid entry at index `i`, if there is one (R46). -/
def State.entryAt (s : State) (i : Nat) : Option Entry :=
  if i < s.capLen.toNat then Memory.read s.cap i else none

/-- Index `i` holds a valid entry in the window `low..high` (R215). -/
def EntryIn (s : State) (i low high : Nat) : Prop :=
  ∃ m, s.entryAt i = some m ∧ low ≤ m.toNat ∧ m.toNat ≤ high

/-- The capture at `o` is a header, the `n` bits of `v` least significant first, a footer mark, and, if the buffer goes
on, a gap: every duration in its window of R215. -/
structure CaptureHolds (s : State) (o n : Nat) (v : Frame) : Prop where
  hdrMark : EntryIn s o 6664 11108
  hdrSpace : EntryIn s (o + 1) 3247 5413
  bitMark : ∀ k, k < n → EntryIn s (o + 2 + 2 * k) 429 717
  bitSpace : ∀ k, k < n →
    if v.getLsbD k then EntryIn s (o + 3 + 2 * k) 1234 2058 else EntryIn s (o + 3 + 2 * k) 385 643
  footer : EntryIn s (o + 2 + 2 * n) 429 717
  gap : o + 3 + 2 * n < s.capLen.toNat → ∃ m, s.entryAt (o + 3 + 2 * n) = some m ∧ (m.toNat = 0 ∨ 11250 ≤ m.toNat)
  upper : ∀ k, n ≤ k → v.getLsbD k = false

/-- CAP from index 0 holds exactly the given durations (R186). -/
def CapIs (s : State) (ds : List Nat) : Prop :=
  s.capLen.toNat = ds.length ∧ ∀ i, i < ds.length → ∃ m, s.entryAt i = some m ∧ ds[i]? = some m.toNat

/-! ## Transmissions -/

/-- The segment with index `j` of one pass of `n` bits of `v`, by the index formulas of R182 and the durations of R180,
with the carrier attributes of R181. -/
def segmentAt (v : Frame) (n j : Nat) : Segment :=
  let mark (d : Nat) : Segment := ⟨.mark, BitVec.ofNat 32 d, 38000, 50⟩
  let space (d : Nat) : Segment := ⟨.space, BitVec.ofNat 32 d, 38000, 50⟩
  if j = 0 then mark 8836
  else if j = 1 then space 4380
  else if j = 2 + 2 * n then mark 523
  else if j = 3 + 2 * n then space 100000
  else if j % 2 = 0 then mark 523
  else if v.getLsbD ((j - 3) / 2) then space 1696 else space 564

/-- How many of the bits `n-1:0` of `v` are 1 (R185). -/
def onesBelow (v : Frame) : Nat → Nat
  | 0 => 0
  | n + 1 => onesBelow v n + if v.getLsbD n then 1 else 0

/-! ## Responses -/

/-- `respond(OK, VAL = v)` with every other field 0 (R92). -/
def okResponse (v : BitVec 64) : Response := ⟨.ok, v, 0#8, 0#16, 0#32, 0#32⟩

/-- The one FAIL response (R214). -/
def failResponse : Response := ⟨.fail, 0#64, 0#8, 0#16, 0#32, 0#32⟩

/-- The one ERR response (R232). -/
def errResponse : Response := ⟨.err, 0#64, 0#8, 0#16, 0#32, 0#32⟩

/-- No response so far has STATUS = ERR: the premise of R232 for claims about a command sequence. -/
def NoErrSoFar (s : State) : Prop := ∀ r ∈ s.responses, r.status ≠ .err

end Sys2Proof.Machine
end

