-- ==== Sys2Proof/Certificates/Slice0/Obligations.lean ====
section
/-! DEFINITION. The statements for the provers. -/

open Sys2Proof Sys2Proof.Machine

/-! ## The step, the reset, the invariant -/

/-- R80, R81: the word at the port is decoded and the command runs, on the state with the word taken. -/
def Obligations.StepRunsDecodedCommand : Prop :=
  ∀ (s : State) (w : CommandWord) (rest : List Input) (i : Instr),
    s.inputs = .command w :: rest → decode w = .ok i → step s = exec i { s with inputs := rest }

/-- R85, R232, R239 (decision D6 of the spec): a word whose OP is none of R84 answers ERR with every other field 0 and
does nothing else. -/
def Obligations.IllegalOpcodeAnswersErr : Prop :=
  ∀ (s : State) (w : CommandWord) (rest : List Input),
    s.inputs = .command w :: rest → ¬ LegalOpcode (w.toNat / 2 ^ 96) →
      step s = .next { s with inputs := rest, responses := s.responses ++ [⟨.err, 0, 0, 0, 0, 0⟩] }

/-- R51, R260, R262: the state after hardware reset, field by field; the machine's own two lists are empty (log entries 1, 2), and CAP
has no value anywhere (log entry 5). -/
def Obligations.ResetLeavesDefaultConfiguration : Prop :=
  Sys2Proof.core.reset.frame.toNat = 0x0000010114000000
    ∧ Sys2Proof.core.reset.savedTemp.toNat = 20 ∧ Sys2Proof.core.reset.savedUnit = false
    ∧ Sys2Proof.core.reset.capLen.toNat = 0 ∧ Sys2Proof.core.reset.tx = []
    ∧ (∀ i, Memory.read Sys2Proof.core.reset.cap i = none)
    ∧ Sys2Proof.core.reset.inputs = [] ∧ Sys2Proof.core.reset.responses = []
    ∧ Consistent Sys2Proof.core.reset.frame ∧ SavedConsistent Sys2Proof.core.reset

/-- R260 and log entry 4: the hardware reset input gives the reset state whatever the state before; what the outside
still has to present stays. -/
def Obligations.HardwareResetFromEveryState : Prop :=
  ∀ (s : State) (rest : List Input),
    s.inputs = .hardReset :: rest → step s = .next { State.reset with inputs := rest }

/-- The invariant holds at reset. -/
def Obligations.ResetMeetsInvariant : Prop := MachineInv State.reset

/-- R46, R62, R151: every step keeps the invariant, from every state that meets it. -/
def Obligations.StepKeepsInvariant : Prop :=
  ∀ s t : State, MachineInv s → step s = .next t → MachineInv t

/-- R230: "no command hangs, traps, is abandoned": from every state that meets the invariant, whatever is presented, the
step answers a next state. -/
def Obligations.InvariantStatesNeverStop : Prop :=
  ∀ s : State, MachineInv s → ∃ t, step s = .next t

/-- R80, R92: a step that takes a command word takes that word and nothing else from the port and produces exactly one
response, whose ADDR and CMD are 0; "When STATUS is FAIL or ERR every other field is 0". -/
def Obligations.OneResponsePerCommand : Prop :=
  ∀ (s t : State) (w : CommandWord) (rest : List Input),
    s.inputs = .command w :: rest → step s = .next t →
      t.inputs = rest ∧ ∃ r, t.responses = s.responses ++ [r] ∧ r.addr = 0 ∧ r.cmd = 0
        ∧ (r.status ≠ .ok → r.val = 0 ∧ r.bits = 0 ∧ r.proto = 0)

/-- R93: which commands can answer FAIL and ERR: DECODE alone FAIL; ENCODE, DECODE and CAPPUSH ERR; all others OK. -/
def Obligations.StatusesOfEachCommand : Prop :=
  ∀ (i : Instr) (s t : State) (r : Response), exec i s = .next t → t.responses = s.responses ++ [r] →
    (r.status = .fail → ∃ b o n, i = .decode b o n)
      ∧ (r.status = .err → (∃ v c n, i = .encode v c n) ∨ (∃ b o n, i = .decode b o n) ∨ (∃ d, i = .capPush d))

/-- R237: a command that answers FAIL or ERR has no other effect: "the state after equals the state before". -/
def Obligations.FailureChangesNothing : Prop :=
  ∀ (i : Instr) (s t : State) (r : Response), exec i s = .next t → t.responses = s.responses ++ [r] →
    r.status ≠ .ok → t = { s with responses := s.responses ++ [r] }

/-- The "written by" column of R20 and of R22: each piece of state is changed by the named commands only. -/
def Obligations.OnlyNamedCommandsWriteEachState : Prop :=
  ∀ (i : Instr) (s t : State), exec i s = .next t →
    t.inputs = s.inputs
    ∧ (t.tx ≠ s.tx → ∃ v r n, i = .encode v r n)
    ∧ (t.cap ≠ s.cap → ∃ d, i = .capPush d)
    ∧ (t.capLen ≠ s.capLen → i = .capClr ∨ ∃ d, i = .capPush d)
    ∧ (t.savedTemp ≠ s.savedTemp ∨ t.savedUnit ≠ s.savedUnit →
        i = .reset ∨ (∃ d f, i = .setTemp d f) ∨ (∃ d, i = .setTempCur d) ∨ (∃ m, i = .setMode m))
    ∧ (i ≠ .reset → (∀ v, i ≠ .loadPacked v) →
        (fieldAt t.frame 56 8 = fieldAt s.frame 56 8 ∧ fieldAt t.frame 44 3 = fieldAt s.frame 44 3
          ∧ fieldAt t.frame 8 8 = fieldAt s.frame 8 8)
        ∧ (fieldAt t.frame 48 8 ≠ fieldAt s.frame 48 8 ∨ fieldAt t.frame 0 8 ≠ fieldAt s.frame 0 8 → i = .getPacked)
        ∧ (fieldAt t.frame 47 1 ≠ fieldAt s.frame 47 1 → ∃ b, i = .setPower b)
        ∧ (fieldAt t.frame 40 4 ≠ fieldAt s.frame 40 4 → ∃ m, i = .setMode m)
        ∧ (fieldAt t.frame 39 1 ≠ fieldAt s.frame 39 1 ∨ fieldAt t.frame 16 8 ≠ fieldAt s.frame 16 8 →
            ∃ m, i = .setTimer m)
        ∧ (fieldAt t.frame 38 1 ≠ fieldAt s.frame 38 1 →
            (∃ f, i = .setTempUnit f) ∨ (∃ d f, i = .setTemp d f) ∨ (∃ d, i = .setTempCur d) ∨ (∃ m, i = .setMode m))
        ∧ (fieldAt t.frame 37 1 ≠ fieldAt s.frame 37 1 → ∃ b, i = .setSwing b)
        ∧ (fieldAt t.frame 36 1 ≠ fieldAt s.frame 36 1 → ∃ b, i = .setSleep b)
        ∧ (fieldAt t.frame 32 4 ≠ fieldAt s.frame 32 4 → (∃ v, i = .setFan v) ∨ (∃ m, i = .setMode m))
        ∧ (fieldAt t.frame 24 8 ≠ fieldAt s.frame 24 8 →
            (∃ d f, i = .setTemp d f) ∨ (∃ d, i = .setTempCur d) ∨ (∃ m, i = .setMode m)))

/-- R42, R43: the saved pair is "read only by the mode setter ... and never exposed directly": every other command
does and answers the same whatever the pair holds. RESET and the two temperature setters leave the same pair whatever
it held; the others leave it as it was. -/
def Obligations.SavedPairReachesOnlySetMode : Prop :=
  ∀ (i : Instr) (s t : State) (temp : BitVec 8) (unit : Bool), (∀ m, i ≠ .setMode m) → exec i s = .next t →
    ∃ t', exec i { s with savedTemp := temp, savedUnit := unit } = .next t'
      ∧ t'.frame = t.frame ∧ t'.cap = t.cap ∧ t'.capLen = t.capLen ∧ t'.tx = t.tx ∧ t'.responses = t.responses
      ∧ t'.inputs = t.inputs
      ∧ (i = .reset ∨ (∃ d f, i = .setTemp d f) ∨ (∃ d, i = .setTempCur d) →
          t'.savedTemp = t.savedTemp ∧ t'.savedUnit = t.savedUnit)
      ∧ (i ≠ .reset → (∀ d f, i ≠ .setTemp d f) → (∀ d, i ≠ .setTempCur d) →
          t'.savedTemp = temp ∧ t'.savedUnit = unit ∧ t.savedTemp = s.savedTemp ∧ t.savedUnit = s.savedUnit)

/-! ## Encoding -/

/-- R82, R84, R87: OP selects the command, and the operands are the bits R82 names, for every word. -/
def Obligations.OpcodeSelectsCommandAndOperands : Prop :=
  DecodesAs 0x01 (fun _ => .reset)
    ∧ DecodesAs 0x02 (fun w => .setPower (w.getLsbD 0)) ∧ DecodesAs 0x03 (fun _ => .getPower)
    ∧ DecodesAs 0x04 (fun w => .setTempUnit (w.getLsbD 0)) ∧ DecodesAs 0x05 (fun _ => .getTempUnit)
    ∧ DecodesAs 0x06 (fun w => .setTemp (BitVec.ofNat 8 (w.toNat / 2 ^ 16)) (w.getLsbD 0))
    ∧ DecodesAs 0x07 (fun w => .setTempCur (BitVec.ofNat 8 (w.toNat / 2 ^ 16))) ∧ DecodesAs 0x08 (fun _ => .getTemp)
    ∧ DecodesAs 0x09 (fun w => .setFan (BitVec.ofNat 8 (w.toNat / 2 ^ 16))) ∧ DecodesAs 0x0A (fun _ => .getFan)
    ∧ DecodesAs 0x0B (fun w => .setMode (BitVec.ofNat 8 (w.toNat / 2 ^ 16))) ∧ DecodesAs 0x0C (fun _ => .getMode)
    ∧ DecodesAs 0x0D (fun w => .setSwing (w.getLsbD 0)) ∧ DecodesAs 0x0E (fun _ => .getSwing)
    ∧ DecodesAs 0x0F (fun w => .setSleep (w.getLsbD 0)) ∧ DecodesAs 0x10 (fun _ => .getSleep)
    ∧ DecodesAs 0x11 (fun w => .setTimer (BitVec.ofNat 16 (w.toNat / 2 ^ 16))) ∧ DecodesAs 0x12 (fun _ => .getTimer)
    ∧ DecodesAs 0x13 (fun _ => .getTimerEn) ∧ DecodesAs 0x14 (fun _ => .getPacked)
    ∧ DecodesAs 0x15 (fun w => .loadPacked (BitVec.ofNat 64 (w.toNat / 2 ^ 32)))
    ∧ DecodesAs 0x20 (fun w => .checksum (BitVec.ofNat 64 (w.toNat / 2 ^ 32)))
    ∧ DecodesAs 0x21 (fun w => .encode (BitVec.ofNat 64 (w.toNat / 2 ^ 32)) (BitVec.ofNat 16 (w.toNat / 2 ^ 16))
        (BitVec.ofNat 8 w.toNat))
    ∧ DecodesAs 0x22 (fun w => .decode (w.getLsbD 32) (BitVec.ofNat 16 (w.toNat / 2 ^ 16)) (BitVec.ofNat 8 w.toNat))
    ∧ DecodesAs 0x23 (fun _ => .capClr) ∧ DecodesAs 0x24 (fun w => .capPush (BitVec.ofNat 32 (w.toNat / 2 ^ 32)))

/-- R82, R84: words written out from the spec decode to the commands they stand for, one or more of each family. -/
def Obligations.WrittenWordsDecode : Prop :=
  decode 0x02000000000000000000000001#104 = .ok (.setPower true)
    ∧ decode 0x06000000000000000000190000#104 = .ok (.setTemp 25 false)
    ∧ decode 0x110000000000000000005A0000#104 = .ok (.setTimer 90)
    ∧ decode 0x15001881221200004B00000000#104 = .ok (.loadPacked 0x001881221200004B)
    ∧ decode 0x21001884011900006200000038#104 = .ok (.encode 0x0018840119000062 0 56)
    ∧ decode 0x22000000000000000100000038#104 = .ok (.decode true 0 56)
    ∧ decode 0x24000000000000228400000000#104 = .ok (.capPush 8836)

/-- R81 to R84: decoding an encoded command gives it back, every command, every operand value. -/
def Obligations.DecodeOfEncodeIsTheCommand : Prop := ∀ i : Instr, decode (encode i) = .ok i

/-- R83, R90: a word that decodes is the encoding of its command but for bits the command's format does not use; two
words that differ only in unused bits are the same command. -/
def Obligations.UnusedBitsAreIgnored : Prop :=
  (∀ (w : CommandWord) (i : Instr), decode w = .ok i → encode i = w &&& usedBits i)
    ∧ ∀ (w w' : CommandWord) (i : Instr), decode w = .ok i → w &&& usedBits i = w' &&& usedBits i → decode w' = .ok i

/-- R92: the response as one 154-bit record: STATUS 153:152, VAL 151:88, BITS 87:80, PROTO 79:64, ADDR 63:32,
CMD 31:0. -/
def Obligations.ResponseRecordLayout : Prop :=
  ∀ r : Response,
    r.record.toNat / 2 ^ 152 = (match r.status with | .ok => 0 | .fail => 1 | .err => 2)
      ∧ r.record.toNat / 2 ^ 88 % 2 ^ 64 = r.val.toNat ∧ r.record.toNat / 2 ^ 80 % 2 ^ 8 = r.bits.toNat
      ∧ r.record.toNat / 2 ^ 64 % 2 ^ 16 = r.proto.toNat ∧ r.record.toNat / 2 ^ 32 % 2 ^ 32 = r.addr.toNat
      ∧ r.record.toNat % 2 ^ 32 = r.cmd.toNat

/-! ## Single-bit field commands -/

/-- R111: SETPOWER writes FRAME bit 47 and nothing else, answers OK 0. -/
def Obligations.SetPowerWritesPowerBit : Prop :=
  DecodesAs 0x02 (fun w => .setPower (w.getLsbD 0)) ∧
  ∀ (b : Bool) (s : State), ∃ f : Frame,
    (∀ k, f.getLsbD k = if k = 47 then b else s.frame.getLsbD k)
      ∧ exec (.setPower b) s = .next { s with frame := f, responses := s.responses ++ [⟨.ok, 0, 0, 0, 0, 0⟩] }

/-- R113: SETTEMPUNIT writes FRAME bit 38 and nothing else: TEMP and the saved pair stay. -/
def Obligations.SetTempUnitWritesUnitBit : Prop :=
  DecodesAs 0x04 (fun w => .setTempUnit (w.getLsbD 0)) ∧
  ∀ (b : Bool) (s : State), ∃ f : Frame,
    (∀ k, f.getLsbD k = if k = 38 then b else s.frame.getLsbD k)
      ∧ exec (.setTempUnit b) s = .next { s with frame := f, responses := s.responses ++ [⟨.ok, 0, 0, 0, 0, 0⟩] }

/-- R115: SETSWING writes FRAME bit 37 and nothing else. -/
def Obligations.SetSwingWritesSwingBit : Prop :=
  DecodesAs 0x0D (fun w => .setSwing (w.getLsbD 0)) ∧
  ∀ (b : Bool) (s : State), ∃ f : Frame,
    (∀ k, f.getLsbD k = if k = 37 then b else s.frame.getLsbD k)
      ∧ exec (.setSwing b) s = .next { s with frame := f, responses := s.responses ++ [⟨.ok, 0, 0, 0, 0, 0⟩] }

/-- R117: SETSLEEP writes FRAME bit 36 and nothing else. -/
def Obligations.SetSleepWritesSleepBit : Prop :=
  DecodesAs 0x0F (fun w => .setSleep (w.getLsbD 0)) ∧
  ∀ (b : Bool) (s : State), ∃ f : Frame,
    (∀ k, f.getLsbD k = if k = 36 then b else s.frame.getLsbD k)
      ∧ exec (.setSleep b) s = .next { s with frame := f, responses := s.responses ++ [⟨.ok, 0, 0, 0, 0, 0⟩] }

/-- R112, R114, R116, R118, R148: the one-bit getters answer their FRAME bit, zero-extended, and change nothing. -/
def Obligations.SingleBitGettersAnswerTheirBit : Prop :=
  (DecodesAs 0x03 (fun _ => .getPower) ∧ DecodesAs 0x05 (fun _ => .getTempUnit) ∧ DecodesAs 0x0E (fun _ => .getSwing)
    ∧ DecodesAs 0x10 (fun _ => .getSleep) ∧ DecodesAs 0x13 (fun _ => .getTimerEn)) ∧
  ∀ s : State, ∀ p ∈ [(Instr.getPower, 47), (.getTempUnit, 38), (.getSwing, 37), (.getSleep, 36), (.getTimerEn, 39)],
    exec p.1 s = .next { s with responses := s.responses ++
      [⟨.ok, if s.frame.getLsbD p.2 then 1 else 0, 0, 0, 0, 0⟩] }

/-- R119: after SETx b, GETx answers b and the other getters of the two files answer as before; two setters on
different bits commute. -/
def Obligations.BitSettersAndGettersAgree : Prop :=
  ∀ (b c : Bool) (s : State),
    let pairs : List ((Bool → Instr) × Instr) :=
      [(.setPower, .getPower), (.setTempUnit, .getTempUnit), (.setSwing, .getSwing), (.setSleep, .getSleep)]
    let getters : List Instr :=
      [.getPower, .getTempUnit, .getSwing, .getSleep, .getTemp, .getFan, .getMode, .getTimer, .getTimerEn]
    (∀ p ∈ pairs, ∃ t u, exec (p.1 b) s = .next t ∧ exec p.2 t = .next u
      ∧ u.responses = t.responses ++ [okResponse (if b then 1 else 0)]
      ∧ ∀ g ∈ getters, g ≠ p.2 → ∀ r, exec g s = .next { s with responses := s.responses ++ [r] } →
          exec g t = .next { t with responses := t.responses ++ [r] })
    ∧ ∀ p ∈ pairs, ∀ q ∈ pairs, p.2 ≠ q.2 → ∃ t u v,
        exec (p.1 b) s = .next t ∧ exec (q.1 c) t = .next v ∧ exec (q.1 c) s = .next u ∧ exec (p.1 b) u = .next v

/-! ## Temperature, fan, mode, timer -/

/-- R131: SETTEMP stores the request clamped for the given unit, in FRAME and in the saved pair, whatever the mode. -/
def Obligations.SetTempClampsAndSaves : Prop :=
  DecodesAs 0x06 (fun w => .setTemp (BitVec.ofNat 8 (w.toNat / 2 ^ 16)) (w.getLsbD 0)) ∧
  ∀ (d : BitVec 8) (u : Bool) (s : State), ∃ f : Frame, ∃ t : BitVec 8,
    t.toNat = (if u then min (max d.toNat 61) 86 else min (max d.toNat 16) 30)
      ∧ (∀ k, f.getLsbD k = if k = 38 then u else if 24 ≤ k ∧ k ≤ 31 then t.getLsbD (k - 24) else s.frame.getLsbD k)
      ∧ exec (.setTemp d u) s = .next { s with
          frame := f, savedTemp := t, savedUnit := u, responses := s.responses ++ [⟨.ok, 0, 0, 0, 0, 0⟩] }

/-- R132: SETTEMPCUR is SETTEMP with the unit that FRAME holds before. -/
def Obligations.SetTempCurTakesFrameUnit : Prop :=
  DecodesAs 0x07 (fun w => .setTempCur (BitVec.ofNat 8 (w.toNat / 2 ^ 16))) ∧
  ∀ (d : BitVec 8) (s : State), ∃ f : Frame, ∃ t : BitVec 8,
    t.toNat = (if s.frame.getLsbD 38 then min (max d.toNat 61) 86 else min (max d.toNat 16) 30)
      ∧ (∀ k, f.getLsbD k = if 24 ≤ k ∧ k ≤ 31 then t.getLsbD (k - 24) else s.frame.getLsbD k)
      ∧ exec (.setTempCur d) s = .next { s with
          frame := f, savedTemp := t, savedUnit := s.frame.getLsbD 38,
          responses := s.responses ++ [⟨.ok, 0, 0, 0, 0, 0⟩] }

/-- R133, R138, R142: the getters of TEMP, FAN and MODE answer the field as stored, and change nothing. -/
def Obligations.FieldGettersAnswerTheirField : Prop :=
  (DecodesAs 0x08 (fun _ => .getTemp) ∧ DecodesAs 0x0A (fun _ => .getFan) ∧ DecodesAs 0x0C (fun _ => .getMode)) ∧
  ∀ s : State, ∀ p ∈ [(Instr.getTemp, 24, 8), (.getFan, 32, 4), (.getMode, 40, 4)],
    exec p.1 s = .next { s with responses := s.responses ++
      [⟨.ok, BitVec.ofNat 64 (fieldAt s.frame p.2.1 p.2.2), 0, 0, 0, 0⟩] }

/-- R136: SETFAN stores `fannorm` of the request and the mode field in FRAME.FAN, and writes nothing else. -/
def Obligations.SetFanStoresNormalisedSpeed : Prop :=
  DecodesAs 0x09 (fun w => .setFan (BitVec.ofNat 8 (w.toNat / 2 ^ 16))) ∧
  ∀ (v : BitVec 8) (s : State), ∃ f : Frame,
    fieldAt f 32 4 = fannorm Config.machine v.toNat (fieldAt s.frame 40 4) ∧ AgreeOutside 32 4 s.frame f
      ∧ exec (.setFan v) s = .next { s with frame := f, responses := s.responses ++ [⟨.ok, 0, 0, 0, 0, 0⟩] }

/-- R137's complete table of `fannorm`; that the value 3 gives Low is decision D11 of the spec. -/
def Obligations.FannormTable : Prop :=
  ∀ s m : Nat, fannorm Config.machine s m =
    if m = 2 then 1
    else if s = 0 then 1 else if s = 1 then 1 else if s = 2 then 2 else if s = 3 then 1 else 4

/-- R141: every value that is no mode code gives Cool; the four codes are kept. -/
def Obligations.ModenormSubstitutesCool : Prop :=
  ∀ m : Nat, (m = 1 ∨ m = 2 ∨ m = 4 ∨ m = 8 → modenorm Config.machine m = m)
    ∧ (m ≠ 1 → m ≠ 2 → m ≠ 4 → m ≠ 8 → modenorm Config.machine m = 1)

/-- R140 (decision D17 of the spec: every mode, Dry included): SETMODE stores the mode, then the fan field normalised
under the new mode, then the saved temperature clamped for the saved unit. -/
def Obligations.SetModeReappliesFanAndTemperature : Prop :=
  DecodesAs 0x0B (fun w => .setMode (BitVec.ofNat 8 (w.toNat / 2 ^ 16))) ∧
  ∀ (m : BitVec 8) (s : State), ∃ f : Frame, ∃ t : BitVec 8,
    t.toNat = (if s.savedUnit then min (max s.savedTemp.toNat 61) 86 else min (max s.savedTemp.toNat 16) 30)
      ∧ fieldAt f 40 4 = modenorm Config.machine m.toNat
      ∧ fieldAt f 32 4 = fannorm Config.machine (fieldAt s.frame 32 4) (modenorm Config.machine m.toNat)
      ∧ fieldAt f 24 8 = t.toNat ∧ f.getLsbD 38 = s.savedUnit
      ∧ (∀ k, k < 24 ∨ k = 36 ∨ k = 37 ∨ k = 39 ∨ 44 ≤ k → f.getLsbD k = s.frame.getLsbD k)
      ∧ exec (.setMode m) s = .next { s with
          frame := f, savedTemp := t, savedUnit := s.savedUnit, responses := s.responses ++ [⟨.ok, 0, 0, 0, 0, 0⟩] }

/-- R146 (decision D30 of the spec: no 8-bit truncation of the hours): SETTIMER stores the whole hours, at most 24, and
the enable bit. -/
def Obligations.SetTimerStoresWholeHours : Prop :=
  DecodesAs 0x11 (fun w => .setTimer (BitVec.ofNat 16 (w.toNat / 2 ^ 16))) ∧
  ∀ (m : BitVec 16) (s : State), ∃ f : Frame,
    fieldAt f 16 8 = min (m.toNat / 60) 24 ∧ (f.getLsbD 39 = decide (60 ≤ m.toNat))
      ∧ (∀ k, k < 16 ∨ 24 ≤ k → k ≠ 39 → f.getLsbD k = s.frame.getLsbD k)
      ∧ exec (.setTimer m) s = .next { s with frame := f, responses := s.responses ++ [⟨.ok, 0, 0, 0, 0, 0⟩] }

/-- R147: GETTIMER answers 0 if the timer is disabled, else hours times 60, and changes nothing. -/
def Obligations.GetTimerAnswersMinutes : Prop :=
  DecodesAs 0x12 (fun _ => .getTimer) ∧
  ∀ s : State, exec .getTimer s = .next { s with responses := s.responses ++
    [⟨.ok, BitVec.ofNat 64 (if s.frame.getLsbD 39 then fieldAt s.frame 16 8 * 60 else 0), 0, 0, 0, 0⟩] }

/-- R150, R151: every command but LOADPACKED and SETTEMPUNIT keeps the frame consistent. -/
def Obligations.CommandsKeepFrameConsistent : Prop :=
  ∀ (i : Instr) (s t : State), (∀ v, i ≠ .loadPacked v) → (∀ f, i ≠ .setTempUnit f) →
    SavedConsistent s → Consistent s.frame → exec i s = .next t → Consistent t.frame ∧ SavedConsistent t

/-- R151, R267: from any frame, `SETMODE m; SETTIMER n` makes the frame consistent again, and its temperature and unit
are the saved pair. -/
def Obligations.SetModeThenSetTimerRepairsFrame : Prop :=
  ∀ (m : BitVec 8) (n : BitVec 16) (s : State), SavedConsistent s → ∃ t u,
    exec (.setMode m) s = .next t ∧ exec (.setTimer n) t = .next u ∧ Consistent u.frame ∧ SavedConsistent u
      ∧ fieldAt u.frame 24 8 = s.savedTemp.toNat ∧ (fieldAt u.frame 38 1 = 1 ↔ s.savedUnit = true)

/-- R268, R271: SETTEMPUNIT is undone by the next SETMODE, and Dry's fan override stays after a SETMODE to any other
mode. -/
def Obligations.SetModeUndoesUnitAndDryIsSticky : Prop :=
  (∀ (f : Bool) (m : BitVec 8) (s : State), ∃ t u, exec (.setTempUnit f) s = .next t ∧ exec (.setMode m) t = .next u
      ∧ u.frame.getLsbD 38 = s.savedUnit ∧ u.savedUnit = s.savedUnit)
    ∧ ∀ (m : BitVec 8) (s : State), ∃ t u, exec (.setMode 2#8) s = .next t ∧ exec (.setMode m) t = .next u
      ∧ fieldAt t.frame 32 4 = 1 ∧ fieldAt u.frame 32 4 = 1

/-! ## Reset, read-out, load, checksum -/

/-- R160, R261 (decisions D12 to D14 of the spec): RESET gives FRAME and the saved pair their default values and leaves
CAP, CAP_LEN and TX. -/
def Obligations.ResetCommandRestoresDefaults : Prop :=
  DecodesAs 0x01 (fun _ => .reset) ∧
  ∀ s : State, exec .reset s = .next { s with
    frame := 0x0000010114000000, savedTemp := 20, savedUnit := false,
    responses := s.responses ++ [⟨.ok, 0, 0, 0, 0, 0⟩] }

/-- R163 (decision D18 of the spec): GETPACKED stamps HEADER and SUM in the stored FRAME, touches no other bit, and
answers the frame. -/
def Obligations.GetPackedStampsHeaderAndSum : Prop :=
  DecodesAs 0x14 (fun _ => .getPacked) ∧
  ∀ s : State, ∃ f : Frame,
    fieldAt f 48 8 = 0x18 ∧ fieldAt f 0 8 = checksumNat s.frame
      ∧ (∀ k, (8 ≤ k ∧ k < 48) ∨ 56 ≤ k → f.getLsbD k = s.frame.getLsbD k)
      ∧ exec .getPacked s = .next { s with frame := f, responses := s.responses ++ [⟨.ok, f, 0, 0, 0, 0⟩] }

/-- R164 (1) to (3): the read-out is a valid frame; a second GETPACKED, and one after loading the value back, give the
same value. -/
def Obligations.GetPackedIsValidAndIdempotent : Prop :=
  ∀ s : State, ∃ t, exec .getPacked s = .next t ∧ FrameValid t.frame
    ∧ t.responses = s.responses ++ [okResponse t.frame]
    ∧ exec .getPacked t = .next { t with responses := t.responses ++ [okResponse t.frame] }
    ∧ ∀ s' : State, ∃ u, exec (.loadPacked t.frame) s' = .next u
        ∧ exec .getPacked u = .next { u with responses := u.responses ++ [okResponse t.frame] }

/-- R164 (2) and (4): GETPACKED changes no getter's answer, and the stored HEADER and SUM never influence its own. -/
def Obligations.GetPackedHidesStaleStamps : Prop :=
  (∀ s t : State, exec .getPacked s = .next t →
    ∀ g ∈ [Instr.getPower, .getTempUnit, .getSwing, .getSleep, .getTemp, .getFan, .getMode, .getTimer, .getTimerEn],
      ∀ r, exec g s = .next { s with responses := s.responses ++ [r] } →
        exec g t = .next { t with responses := t.responses ++ [r] })
    ∧ ∀ s s' : State, (∀ k, (8 ≤ k ∧ k < 48) ∨ 56 ≤ k → s'.frame.getLsbD k = s.frame.getLsbD k) →
        ∃ f : Frame, exec .getPacked s = .next { s with frame := f, responses := s.responses ++ [okResponse f] }
          ∧ exec .getPacked s' = .next { s' with frame := f, responses := s'.responses ++ [okResponse f] }

/-- R165: LOADPACKED replaces FRAME verbatim and writes nothing else, the saved pair among it. -/
def Obligations.LoadPackedReplacesFrame : Prop :=
  DecodesAs 0x15 (fun w => .loadPacked (BitVec.ofNat 64 (w.toNat / 2 ^ 32))) ∧
  ∀ (v : Frame) (s : State),
    exec (.loadPacked v) s = .next { s with frame := v, responses := s.responses ++ [⟨.ok, 0, 0, 0, 0, 0⟩] }

/-- R167: CHECKSUM answers the checksum of its operand, zero-extended, and changes nothing. -/
def Obligations.ChecksumCommandAnswersChecksum : Prop :=
  DecodesAs 0x20 (fun w => .checksum (BitVec.ofNat 64 (w.toNat / 2 ^ 32))) ∧
  ∀ (v : Frame) (s : State),
    exec (.checksum v) s = .next { s with responses := s.responses ++
      [⟨.ok, BitVec.ofNat 64 (checksumNat v), 0, 0, 0, 0⟩] }

/-- R166, R169 (decision D1 of the spec: the offsets): the checksum is the 8-bit two's complement of the sum of the data
bytes, depends on bits 47:16 only, and changes by -d when one data byte changes by +d. -/
def Obligations.ChecksumIsTwosComplementOfSum : Prop :=
  (∀ v : Frame, (checksum v).toNat = (256 - dataSum v % 256) % 256 ∧ ((checksum v).toNat + dataSum v) % 256 = 0)
    ∧ (∀ v v' : Frame, (∀ k, 16 ≤ k → k < 48 → v'.getLsbD k = v.getLsbD k) → checksum v' = checksum v)
    ∧ ∀ (v v' : Frame) (o d : Nat), o = 16 ∨ o = 24 ∨ o = 32 ∨ o = 40 →
        (∀ o', o' = 16 ∨ o' = 24 ∨ o' = 32 ∨ o' = 40 → o' ≠ o → fieldAt v' o' 8 = fieldAt v o' 8) →
        fieldAt v' o 8 = (fieldAt v o 8 + d) % 256 → ((checksum v').toNat + d) % 256 = (checksum v).toNat

/-! ## Pulse encoder -/

/-- R184: ENCODE with a legal bit count appends `repeatCount + 1` passes of `frameSegments` of its operand to TX, each
segment with the carrier attributes, and writes nothing else. -/
def Obligations.EncodeAppendsPasses : Prop :=
  DecodesAs 0x21 (fun w => .encode (BitVec.ofNat 64 (w.toNat / 2 ^ 32)) (BitVec.ofNat 16 (w.toNat / 2 ^ 16))
    (BitVec.ofNat 8 w.toNat)) ∧
  (∀ (v : Frame) (r : BitVec 16) (n : BitVec 8) (s : State), n.toNat ≤ 64 → ∃ X : List Segment,
    X.length = (r.toNat + 1) * (2 * n.toNat + 4)
      ∧ (∀ q j, q ≤ r.toNat → j < 2 * n.toNat + 4 →
          X[q * (2 * n.toNat + 4) + j]? =
            ((frameSegments Config.machine v n.toNat)[j]?).map (segmentOf Config.machine))
      ∧ exec (.encode v r n) s = .next { s with
          tx := s.tx ++ X, responses := s.responses ++ [⟨.ok, 0, 0, 0, 0, 0⟩] })
  ∧ ∀ (v : Frame) (r : BitVec 16) (n : BitVec 8) (s : State), 64 < n.toNat →
      exec (.encode v r n) s = .next { s with responses := s.responses ++ [⟨.err, 0, 0, 0, 0, 0⟩] }

/-- R182, R47, R181 (decision D19 of the spec: footer mark, gap, duty cycle): the segments of a pass by their index. -/
def Obligations.FrameSegmentsByIndex : Prop :=
  ∀ (v : Frame) (n : Nat), (frameSegments Config.machine v n).length = 2 * n + 4
    ∧ ∀ j, j < 2 * n + 4 →
        ((frameSegments Config.machine v n)[j]?).map (segmentOf Config.machine) = some (segmentAt v n j)

/-- R185: the duration of a pass, and the bounds for 56 bits. -/
def Obligations.PassDurationFormula : Prop :=
  (∀ (v : Frame) (n : Nat),
    pulsesDuration (frameSegments Config.machine v n) = 113739 + 1087 * n + 1132 * onesBelow v n)
    ∧ ∀ v : Frame, 174611 ≤ pulsesDuration (frameSegments Config.machine v 56)
        ∧ pulsesDuration (frameSegments Config.machine v 56) ≤ 238003

/-- R183, R184, R270: what ENCODE appends and answers depends on bits `n-1:0` of its operand alone: not on the bits above,
not on FRAME, not on any other state. -/
def Obligations.EncodeDependsOnSentBitsOnly : Prop :=
  ∀ (v v' : Frame) (r : BitVec 16) (n : BitVec 8) (s s' : State),
    (∀ k, k < n.toNat → v'.getLsbD k = v.getLsbD k) → ∃ X a,
      exec (.encode v r n) s = .next { s with tx := s.tx ++ X, responses := s.responses ++ [a] }
        ∧ exec (.encode v' r n) s' = .next { s' with tx := s'.tx ++ X, responses := s'.responses ++ [a] }

/-! ## Capture buffer and pulse decoder -/

/-- R200 (decision D21 of the spec): CAPCLR sets CAP_LEN to 0 and keeps the entries. -/
def Obligations.CapClrEmptiesTheBuffer : Prop :=
  DecodesAs 0x23 (fun _ => .capClr) ∧
  ∀ s : State, exec .capClr s = .next { s with capLen := 0, responses := s.responses ++ [⟨.ok, 0, 0, 0, 0, 0⟩] }
    ∧ ∀ t, exec .capClr s = .next t → (∀ i, t.entryAt i = none) ∧ ∀ i, Memory.read t.cap i = Memory.read s.cap i

/-- R201, R63, R86 (decision D21 of the spec): CAPPUSH appends an entry, or, on a full buffer, answers ERR and writes
nothing. -/
def Obligations.CapPushAppendsOneEntry : Prop :=
  DecodesAs 0x24 (fun w => .capPush (BitVec.ofNat 32 (w.toNat / 2 ^ 32))) ∧
  (∀ (d : Entry) (s : State), s.capLen.toNat < 1024 → ∃ m : Memory, ∃ len : BitVec 16,
    len.toNat = s.capLen.toNat + 1
      ∧ (∀ i, Memory.read m i = if i = s.capLen.toNat then some d else Memory.read s.cap i)
      ∧ exec (.capPush d) s = .next { s with
          cap := m, capLen := len, responses := s.responses ++ [⟨.ok, 0, 0, 0, 0, 0⟩] })
  ∧ ∀ (d : Entry) (s : State), s.capLen.toNat = 1024 →
      exec (.capPush d) s = .next { s with responses := s.responses ++ [⟨.err, 0, 0, 0, 0, 0⟩] }

/-- R62, R63: a read after a write to the same index gives the value written, every other index reads as before, and
the canonical form is kept and makes equal contents equal data. -/
def Obligations.CaptureMemoryReadsBackWrites : Prop :=
  (∀ (m : Memory) (i j : Nat) (v : Entry), Memory.wf m = true →
    Memory.wf (Memory.write m i v) = true
      ∧ Memory.read (Memory.write m i v) j = if j = i then some v else Memory.read m j)
    ∧ ∀ m m' : Memory, Memory.wf m = true → Memory.wf m' = true →
        (∀ i, Memory.read m i = Memory.read m' i) → m = m'

/-- R215, R205, R206 (decisions D22, D24 of the spec): the windows in microseconds. -/
def Obligations.MatcherWindows : Prop :=
  ∀ m : Entry,
    (matchMark Config.machine m 8836 = true ↔ 6664 ≤ m.toNat ∧ m.toNat ≤ 11108)
    ∧ (matchSpace Config.machine m 4380 = true ↔ 3247 ≤ m.toNat ∧ m.toNat ≤ 5413)
    ∧ (matchMark Config.machine m 523 = true ↔ 429 ≤ m.toNat ∧ m.toNat ≤ 717)
    ∧ (matchSpace Config.machine m 1696 = true ↔ 1234 ≤ m.toNat ∧ m.toNat ≤ 2058)
    ∧ (matchSpace Config.machine m 564 = true ↔ 385 ≤ m.toNat ∧ m.toNat ≤ 643)
    ∧ (matchAtLeast Config.machine m 15000 = true ↔ m.toNat = 0 ∨ 11250 ≤ m.toNat)

/-- R207, R212 (windows and gap test of R215: decisions D22, D24 of the spec): a capture that holds a frame of `n` bits at
`offset` decodes to it, with BITS = n and the protocol identifier, and no state changes. Holds for both values of
STRICT_VERIFIES_SUM (R213). -/
def Obligations.DecodeAnswersTheCapturedFrame : Prop :=
  DecodesAs 0x22 (fun w => .decode (w.getLsbD 32) (BitVec.ofNat 16 (w.toNat / 2 ^ 16)) (BitVec.ofNat 8 w.toNat)) ∧
  ∀ (b : Bool) (o : BitVec 16) (n : BitVec 8) (v : Frame) (s : State),
    n.toNat ≤ 64 → (b = true → n.toNat = 56) → CaptureHolds s o.toNat n.toNat v →
    (b = true → Config.strictVerifiesSum = true → fieldAt v 0 8 = checksumNat v) →
      exec (.decode b o n) s = .next { s with responses := s.responses ++
        [⟨.ok, v, n, Config.protocolId, 0, 0⟩] }

/-- R207, R214 (windows and gap test of R215: decisions D22, D24 of the spec): a DECODE that answers OK has answered what the capture holds, and in every other case of a legal bit
count it answers the one FAIL response; no state changes. -/
def Obligations.DecodeAnswersNothingElse : Prop :=
  ∀ (b : Bool) (o : BitVec 16) (n : BitVec 8) (s : State), MachineInv s → n.toNat ≤ 64 →
    exec (.decode b o n) s = .next { s with responses := s.responses ++ [⟨.fail, 0, 0, 0, 0, 0⟩] }
    ∨ ∃ v, CaptureHolds s o.toNat n.toNat v ∧ (b = true → n.toNat = 56)
        ∧ (b = true → Config.strictVerifiesSum = true → fieldAt v 0 8 = checksumNat v)
        ∧ exec (.decode b o n) s = .next { s with responses := s.responses ++
            [⟨.ok, v, n, Config.protocolId, 0, 0⟩] }

/-- R203, R204, R86, R236: a bit count above 64 answers ERR before anything else; then a capture that is too short, then
a strict count other than 56, answer FAIL, whatever the capture holds. -/
def Obligations.DecodeRefusesInOrder : Prop :=
  ∀ (b : Bool) (o : BitVec 16) (n : BitVec 8) (s : State),
    (64 < n.toNat → exec (.decode b o n) s = .next { s with responses := s.responses ++ [⟨.err, 0, 0, 0, 0, 0⟩] })
    ∧ (n.toNat ≤ 64 → s.capLen.toNat < o.toNat + 2 * n.toNat + 3 ∨ (b = true ∧ n.toNat ≠ 56) →
        exec (.decode b o n) s = .next { s with responses := s.responses ++ [⟨.fail, 0, 0, 0, 0, 0⟩] })

/-- R207: DECODE "is a pure function of (CAP, CAP_LEN, operands, parameters)": two states with the same valid entries
get the same response, and neither changes. -/
def Obligations.DecodeReadsOnlyTheCapture : Prop :=
  ∀ (b : Bool) (o : BitVec 16) (n : BitVec 8) (s s' : State), MachineInv s → s'.capLen = s.capLen →
    (∀ i, s'.entryAt i = s.entryAt i) → ∃ r,
      exec (.decode b o n) s = .next { s with responses := s.responses ++ [r] }
        ∧ exec (.decode b o n) s' = .next { s' with responses := s'.responses ++ [r] }

/-- R186: the loop-back law, with and without the gap entry, for both values of STRICT_VERIFIES_SUM. -/
def Obligations.LoopbackDecodesWhatWasEncoded : Prop :=
  ∀ (b : Bool) (n : BitVec 8) (v : Frame) (s : State),
    n.toNat ≤ 64 → (b = false ∨ n.toNat = 56) →
    (b = true → Config.strictVerifiesSum = true → fieldAt v 0 8 = checksumNat v) →
    (CapIs s ((frameSegments Config.machine v n.toNat).map Prod.snd)
      ∨ CapIs s (((frameSegments Config.machine v n.toNat).map Prod.snd).dropLast)) →
      exec (.decode b 0 n) s = .next { s with responses := s.responses ++
        [⟨.ok, BitVec.ofNat 64 (v.toNat % 2 ^ n.toNat), n, Config.protocolId, 0, 0⟩] }

/-- R262, R91: the whole path, the transmission and the capture entering as the premise that CAP holds the durations of a
pass. The value GETPACKED answers, decoded under strict from a capture of its 56 bits, is that value's 56 bits, whichever value STRICT_VERIFIES_SUM has; and loading it gives every getter's answer back. -/
def Obligations.SentFrameIsReceived : Prop :=
  ∀ (s c : State) (f : Frame),
    exec .getPacked s = .next { s with frame := f, responses := s.responses ++ [okResponse f] } →
    CapIs c ((frameSegments Config.machine f 56).map Prod.snd) → ∃ v : Frame,
      v.toNat = f.toNat % 2 ^ 56
      ∧ exec (.decode true 0 56) c = .next { c with responses := c.responses ++
          [⟨.ok, v, 56, Config.protocolId, 0, 0⟩] }
      ∧ ∃ u, exec (.loadPacked v) c = .next u ∧ FrameValid u.frame
        ∧ ∀ g ∈ [Instr.getPower, .getTempUnit, .getSwing, .getSleep, .getTemp, .getFan, .getMode, .getTimer, .getTimerEn],
          ∀ r, exec g s = .next { s with responses := s.responses ++ [r] } →
            exec g u = .next { u with responses := u.responses ++ [r] }

/-- R91 (defaults of decisions D8, D19 of the spec): `SEND` is GETPACKED, then ENCODE of the value it answered, 56 bits,
sent once. That value is the read-out of the state: GETPACKED there answers it, it is a valid frame, and its bits other
than HEADER and SUM are those of FRAME; TX grows by its segments. -/
def Obligations.SendTransmitsTheReadOut : Prop :=
  assemble Config.machine "SEND" [] = some .send ∧
  ∀ s : State, ∃ f : Frame, ∃ X : List Segment, FrameValid f
    ∧ (∀ k, (8 ≤ k ∧ k < 48) ∨ 56 ≤ k → f.getLsbD k = s.frame.getLsbD k)
    ∧ exec .getPacked s = .next { s with frame := f, responses := s.responses ++ [okResponse f] }
    ∧ X.length = 116 ∧ (∀ j, j < 116 → X[j]? = some (segmentAt f 56 j))
    ∧ HostOp.run Config.machine .send s = .next { s with
        frame := f, tx := s.tx ++ X, responses := s.responses ++ [okResponse f, okResponse 0] }
end

