-- ==== Sys2Proof/Laws/Config.lean ====
section
/-! SUPPORT. The machine's parameters, one equation each (R5), and the facts of the layout table (R22). The equations are
proved by `id rfl`, so that simp rewrites with them by congruence and the decidability of a rewritten test follows. -/

namespace Sys2Proof

@[simp] theorem Config.machine_hdrMarkUs : Config.machine.hdrMarkUs = 8836 := id rfl
@[simp] theorem Config.machine_hdrSpaceUs : Config.machine.hdrSpaceUs = 4380 := id rfl
@[simp] theorem Config.machine_bitMarkUs : Config.machine.bitMarkUs = 523 := id rfl
@[simp] theorem Config.machine_oneSpaceUs : Config.machine.oneSpaceUs = 1696 := id rfl
@[simp] theorem Config.machine_zeroSpaceUs : Config.machine.zeroSpaceUs = 564 := id rfl
@[simp] theorem Config.machine_carrierHz : Config.machine.carrierHz = 38000 := id rfl
@[simp] theorem Config.machine_decodeOverhead : Config.machine.decodeOverhead = 3 := id rfl
@[simp] theorem Config.machine_tempMinC : Config.machine.tempMinC = 16 := id rfl
@[simp] theorem Config.machine_tempMaxC : Config.machine.tempMaxC = 30 := id rfl
@[simp] theorem Config.machine_tempMinF : Config.machine.tempMinF = 61 := id rfl
@[simp] theorem Config.machine_tempMaxF : Config.machine.tempMaxF = 86 := id rfl
@[simp] theorem Config.machine_defaultTemp : Config.machine.defaultTemp = 20 := id rfl
@[simp] theorem Config.machine_technibelBits : Config.machine.technibelBits = 56 := id rfl
@[simp] theorem Config.machine_headerConst : Config.machine.headerConst = 0x18 := id rfl
@[simp] theorem Config.machine_timerMaxHours : Config.machine.timerMaxHours = 24 := id rfl
@[simp] theorem Config.machine_gapUs : Config.machine.gapUs = 100000 := id rfl
@[simp] theorem Config.machine_dutyPct : Config.machine.dutyPct = 50 := id rfl
@[simp] theorem Config.machine_tolerancePct : Config.machine.tolerancePct = 25 := id rfl
@[simp] theorem Config.machine_markExcessUs : Config.machine.markExcessUs = 50 := id rfl
@[simp] theorem Config.machine_rxTimeoutUs : Config.machine.rxTimeoutUs = 15000 := id rfl
@[simp] theorem Config.machine_rawTickUs : Config.machine.rawTickUs = 1 := id rfl
@[simp] theorem Config.machine_capDepth : Config.machine.capDepth = 1024 := id rfl
@[simp] theorem Config.machine_modeCool : Config.machine.modeCool = 1 := id rfl
@[simp] theorem Config.machine_modeDry : Config.machine.modeDry = 2 := id rfl
@[simp] theorem Config.machine_modeFan : Config.machine.modeFan = 4 := id rfl
@[simp] theorem Config.machine_modeHeat : Config.machine.modeHeat = 8 := id rfl
@[simp] theorem Config.machine_fanLow : Config.machine.fanLow = 1 := id rfl
@[simp] theorem Config.machine_fanMed : Config.machine.fanMed = 2 := id rfl
@[simp] theorem Config.machine_fanHigh : Config.machine.fanHigh = 4 := id rfl
@[simp] theorem Config.machine_strictVerifiesSum : Config.machine.strictVerifiesSum = Config.strictVerifiesSum := id rfl
@[simp] theorem Config.machine_protocolId : Config.machine.protocolId = Config.protocolId := id rfl

/-- The machine's parameters meet R274. -/
theorem Config.machine_wellFormed : Config.machine.wellFormed = true := rfl

/-- The fields of R22 lie side by side, lowest first, without gap or overlap, from bit 0 to bit 63. -/
theorem Layout.fields_cover_frame :
    (Layout.fields.foldl (fun edge f => edge.bind fun a => if f.offset = a then some (a + f.width) else none) (some 0))
      = some 64 := by decide

end Sys2Proof
end

