-- ==== Sys2Proof/Laws/Bits.lean ====
section
/-! SUPPORT. Bit-field access: what `getbits` and `setbits` do bit by bit and as numbers (R7, R21). -/

namespace Sys2Proof.Machine

/-- A write of one field: its bits are the datum's, every other bit is as before (R21). -/
theorem getLsbD_setbits (v : Frame) (o w : Nat) (d : BitVec w) (k : Nat) (h : o + w ≤ 64) :
    (setbits v o w d).getLsbD k = if o ≤ k ∧ k < o + w then d.getLsbD (k - o) else v.getLsbD k := by
  by_cases hk : k < 64
  · by_cases h1 : o ≤ k
    · by_cases h2 : k < o + w
      · have : k - o < w := by omega
        have h3 : ¬ k < o := by omega
        simp [setbits, fieldMask, hk, h1, h2, this, h3]
      · have : ¬ k - o < w := by omega
        have hd : d.getLsbD (k - o) = false := BitVec.getLsbD_of_ge d _ (by omega)
        simp [setbits, fieldMask, hk, h1, h2, this, hd]
    · have : k < o := by omega
      simp [setbits, fieldMask, hk, h1, this]
  · have h2 : ¬ k < o + w := by omega
    simp [h2, BitVec.getLsbD_of_ge _ _ (Nat.le_of_not_lt hk)]

/-- A write of a one-bit field. -/
theorem getLsbD_setbits_bit (v : Frame) (o : Nat) (b : Bool) (k : Nat) (h : o + 1 ≤ 64) :
    (setbits v o 1 (bit b)).getLsbD k = if k = o then b else v.getLsbD k := by
  rw [getLsbD_setbits v o 1 _ k h]
  by_cases hk : k = o
  · subst hk
    simp [bit]
  · rw [if_neg hk, if_neg (by omega)]

theorem toNat_getbits (v : Frame) (o w : Nat) : (getbits v o w).toNat = fieldAt v o w := by
  simp [getbits, fieldAt]

theorem getLsbD_getbits (v : Frame) (o w k : Nat) : (getbits v o w).getLsbD k = (decide (k < w) && v.getLsbD (o + k)) := by
  simp [getbits]

/-- A field as a number, bit by bit. -/
theorem testBit_fieldAt (v : Frame) (o w k : Nat) : (fieldAt v o w).testBit k = (decide (k < w) && v.getLsbD (o + k)) := by
  rw [← toNat_getbits, BitVec.testBit_toNat, getLsbD_getbits]

theorem fieldAt_lt (v : Frame) (o w : Nat) : fieldAt v o w < 2 ^ w := Nat.mod_lt _ (Nat.two_pow_pos w)

/-- A field depends on its own bits only. -/
theorem fieldAt_congr {v v' : Frame} {o w : Nat}
    (h : ∀ k, o ≤ k → k < o + w → v'.getLsbD k = v.getLsbD k) : fieldAt v' o w = fieldAt v o w := by
  apply Nat.eq_of_testBit_eq
  intro k
  rw [testBit_fieldAt, testBit_fieldAt]
  by_cases hk : k < w
  · rw [h (o + k) (by omega) (by omega)]
  · simp [hk]

/-- A field whose bits are those of `d` holds `d`. -/
theorem fieldAt_eq_toNat {v : Frame} {o w : Nat} (d : BitVec w)
    (h : ∀ k, k < w → v.getLsbD (o + k) = d.getLsbD k) : fieldAt v o w = d.toNat := by
  apply Nat.eq_of_testBit_eq
  intro k
  rw [testBit_fieldAt, BitVec.testBit_toNat]
  by_cases hk : k < w
  · simp [hk, h k hk]
  · simp [hk, BitVec.getLsbD_of_ge d k (by omega)]

/-- The field just written holds the datum. -/
theorem fieldAt_setbits_same (v : Frame) (o w : Nat) (d : BitVec w) (h : o + w ≤ 64) :
    fieldAt (setbits v o w d) o w = d.toNat := by
  apply fieldAt_eq_toNat
  intro k hk
  rw [getLsbD_setbits v o w d _ h]
  simp [hk]

/-- A field apart from the one just written is as before. -/
theorem fieldAt_setbits_other (v : Frame) (o w : Nat) (d : BitVec w) (o' w' : Nat) (h : o + w ≤ 64)
    (hd : o' + w' ≤ o ∨ o + w ≤ o') : fieldAt (setbits v o w d) o' w' = fieldAt v o' w' := by
  apply fieldAt_congr
  intro k h1 h2
  rw [getLsbD_setbits v o w d _ h, if_neg (by omega)]

/-- A one-bit field as a number. -/
theorem fieldAt_one (v : Frame) (o : Nat) : fieldAt v o 1 = if v.getLsbD o then 1 else 0 := by
  have h := testBit_fieldAt v o 1 0
  have hlt := fieldAt_lt v o 1
  have hm : (fieldAt v o 1).testBit 0 = decide (fieldAt v o 1 % 2 = 1) := Nat.testBit_zero _
  rw [hm] at h
  simp at h
  by_cases hb : v.getLsbD o <;> simp [hb] at h ⊢ <;> omega

/-! ## The named writes, bit by bit -/

theorem getLsbD_setPowerBit (v : Frame) (b : Bool) (k : Nat) :
    (setPowerBit v b).getLsbD k = if k = 47 then b else v.getLsbD k :=
  getLsbD_setbits_bit v 47 b k (by decide)

theorem getLsbD_setUnitF (v : Frame) (b : Bool) (k : Nat) :
    (setUnitF v b).getLsbD k = if k = 38 then b else v.getLsbD k :=
  getLsbD_setbits_bit v 38 b k (by decide)

theorem getLsbD_setSwingBit (v : Frame) (b : Bool) (k : Nat) :
    (setSwingBit v b).getLsbD k = if k = 37 then b else v.getLsbD k :=
  getLsbD_setbits_bit v 37 b k (by decide)

theorem getLsbD_setSleepBit (v : Frame) (b : Bool) (k : Nat) :
    (setSleepBit v b).getLsbD k = if k = 36 then b else v.getLsbD k :=
  getLsbD_setbits_bit v 36 b k (by decide)

theorem getLsbD_setTimerEnBit (v : Frame) (b : Bool) (k : Nat) :
    (setTimerEnBit v b).getLsbD k = if k = 39 then b else v.getLsbD k :=
  getLsbD_setbits_bit v 39 b k (by decide)

theorem getLsbD_setModeField (v : Frame) (d k : Nat) :
    (setModeField v d).getLsbD k =
      if 40 ≤ k ∧ k < 44 then (BitVec.ofNat 4 d).getLsbD (k - 40) else v.getLsbD k :=
  getLsbD_setbits _ _ _ _ _ (by decide)

theorem getLsbD_setFanField (v : Frame) (d k : Nat) :
    (setFanField v d).getLsbD k =
      if 32 ≤ k ∧ k < 36 then (BitVec.ofNat 4 d).getLsbD (k - 32) else v.getLsbD k :=
  getLsbD_setbits _ _ _ _ _ (by decide)

theorem getLsbD_setTempField (v : Frame) (d : BitVec 8) (k : Nat) :
    (setTempField v d).getLsbD k = if 24 ≤ k ∧ k < 32 then d.getLsbD (k - 24) else v.getLsbD k :=
  getLsbD_setbits _ _ _ _ _ (by decide)

theorem getLsbD_setTimerHours (v : Frame) (d k : Nat) :
    (setTimerHours v d).getLsbD k =
      if 16 ≤ k ∧ k < 24 then (BitVec.ofNat 8 d).getLsbD (k - 16) else v.getLsbD k :=
  getLsbD_setbits _ _ _ _ _ (by decide)

theorem getLsbD_setHeader (v : Frame) (d : BitVec 8) (k : Nat) :
    (setHeader v d).getLsbD k = if 48 ≤ k ∧ k < 56 then d.getLsbD (k - 48) else v.getLsbD k :=
  getLsbD_setbits _ _ _ _ _ (by decide)

theorem getLsbD_setSum (v : Frame) (d : BitVec 8) (k : Nat) :
    (setSum v d).getLsbD k = if 0 ≤ k ∧ k < 0 + 8 then d.getLsbD (k - 0) else v.getLsbD k :=
  getLsbD_setbits _ _ _ _ _ (by decide)

/-! ## The named reads -/

theorem toNat_getModeField (v : Frame) : (getModeField v).toNat = fieldAt v 40 4 := toNat_getbits _ _ _
theorem toNat_getFanField (v : Frame) : (getFanField v).toNat = fieldAt v 32 4 := toNat_getbits _ _ _
theorem toNat_getTempField (v : Frame) : (getTempField v).toNat = fieldAt v 24 8 := toNat_getbits _ _ _
theorem toNat_getTimerHours (v : Frame) : (getTimerHours v).toNat = fieldAt v 16 8 := toNat_getbits _ _ _
theorem toNat_getSum (v : Frame) : (getSum v).toNat = fieldAt v 0 8 := toNat_getbits _ _ _

/-- A one-bit read, zero-extended. -/
theorem zext64_getbits_one (v : Frame) (o : Nat) :
    zext64 (getbits v o 1) = if v.getLsbD o then 1#64 else 0#64 := by
  apply BitVec.eq_of_toNat_eq
  have h := fieldAt_one v o
  have hlt := fieldAt_lt v o 1
  simp only [zext64, BitVec.toNat_setWidth, toNat_getbits, h]
  by_cases hb : v.getLsbD o <;> simp [hb]

/-- A field read, zero-extended, is the field as a number. -/
theorem zext64_getbits (v : Frame) (o w : Nat) : zext64 (getbits v o w) = BitVec.ofNat 64 (fieldAt v o w) := by
  apply BitVec.eq_of_toNat_eq
  simp [zext64, toNat_getbits]

theorem unitOf_eq (v : Frame) : unitOf v = v.getLsbD 38 := by
  have h := fieldAt_one v 38
  have e : (getUnitF v).toNat = fieldAt v 38 1 := toNat_getbits _ _ _
  unfold unitOf
  by_cases hb : v.getLsbD 38
  · simp only [hb, if_true] at h
    have : getUnitF v = 1#1 := BitVec.eq_of_toNat_eq (by rw [e, h]; rfl)
    simp [this, hb]
  · have hb' : v.getLsbD 38 = false := by simpa using hb
    rw [hb'] at h ⊢
    have : getUnitF v = 0#1 := BitVec.eq_of_toNat_eq (by rw [e, h]; rfl)
    rw [this]; rfl

end Sys2Proof.Machine
end

