-- ==== Sys2Proof/Laws/Memory.lean ====
section
/-! SUPPORT. The capture memory (R62, R63): a read after a write, and the canonical form. -/

namespace Sys2Proof.Machine

/-- Nothing is listed below where the indices start. -/
theorem Memory.read_eq_none_of_lt {m : Memory} {b i : Nat} (h : Memory.risesFrom b m = true) (hi : i < b) :
    Memory.read m i = none := by
  induction m generalizing b with
  | nil => rfl
  | cons x m ih =>
    obtain ⟨j, u⟩ := x
    simp only [Memory.risesFrom, Bool.and_eq_true, decide_eq_true_eq] at h
    rw [Memory.read, if_neg (by omega)]
    exact ih h.2 (by omega)

/-- A write keeps the canonical form, from the same start. -/
theorem Memory.risesFrom_write {m : Memory} {b i : Nat} {v : Entry} (h : Memory.risesFrom b m = true) (hi : b ≤ i) :
    Memory.risesFrom b (Memory.write m i v) = true := by
  induction m generalizing b with
  | nil => simp [Memory.write, Memory.risesFrom, hi]
  | cons x m ih =>
    obtain ⟨j, u⟩ := x
    simp only [Memory.risesFrom, Bool.and_eq_true, decide_eq_true_eq] at h
    unfold Memory.write
    split
    · next hlt => simp [Memory.risesFrom, hi, hlt, h.2]
    · split
      · next heq => subst heq; simp [Memory.risesFrom, hi, h.2]
      · next hlt hne =>
        simp only [Memory.risesFrom, Bool.and_eq_true, decide_eq_true_eq]
        exact ⟨h.1, ih h.2 (by omega)⟩

/-- A write keeps the canonical form. -/
theorem Memory.wf_write {m : Memory} (i : Nat) (v : Entry) (h : Memory.wf m = true) :
    Memory.wf (Memory.write m i v) = true := Memory.risesFrom_write h (Nat.zero_le i)

/-- A read after a write, in a memory in canonical form. -/
theorem Memory.read_write_from {m : Memory} {b : Nat} (i j : Nat) (v : Entry) (h : Memory.risesFrom b m = true) :
    Memory.read (Memory.write m i v) j = if j = i then some v else Memory.read m j := by
  induction m generalizing b with
  | nil => simp [Memory.write, Memory.read]
  | cons x m ih =>
    obtain ⟨k, u⟩ := x
    simp only [Memory.risesFrom, Bool.and_eq_true, decide_eq_true_eq] at h
    unfold Memory.write
    split
    · next hlt => simp [Memory.read]
    · split
      · next heq => subst heq; by_cases hj : j = i <;> simp [Memory.read, hj]
      · next hlt hne =>
        rw [Memory.read, ih h.2, Memory.read]
        by_cases hj : j = i
        · subst hj; simp [hne]
        · simp [hj]

theorem Memory.read_write {m : Memory} (i j : Nat) (v : Entry) (h : Memory.wf m = true) :
    Memory.read (Memory.write m i v) j = if j = i then some v else Memory.read m j :=
  Memory.read_write_from i j v h

/-- Every step that writes CAP keeps its canonical form: `capWrite` is the only operation that does. -/
theorem capWrite_wf {p : Params} {s t : State} {i : Nat} {v : Entry} (h : Memory.wf s.cap = true)
    (ht : capWrite p s i v = .ok t) : Memory.wf t.cap = true := by
  unfold capWrite at ht
  split at ht
  · cases ht; exact Memory.wf_write i v h
  · cases ht

end Sys2Proof.Machine
end

