-- ==== Sys2Proof/Laws/State.lean ====
section
/-! SUPPORT. One lemma per field of State per update, each true by rfl, so that no later proof unfolds a record update. -/

namespace Sys2Proof.Machine

@[simp] theorem State.writeFrame_frame (s : State) (v : Frame) : (s.writeFrame v).frame = v := rfl
@[simp] theorem State.writeFrame_savedTemp (s : State) (v : Frame) : (s.writeFrame v).savedTemp = s.savedTemp := rfl
@[simp] theorem State.writeFrame_savedUnit (s : State) (v : Frame) : (s.writeFrame v).savedUnit = s.savedUnit := rfl
@[simp] theorem State.writeFrame_cap (s : State) (v : Frame) : (s.writeFrame v).cap = s.cap := rfl
@[simp] theorem State.writeFrame_capLen (s : State) (v : Frame) : (s.writeFrame v).capLen = s.capLen := rfl
@[simp] theorem State.writeFrame_tx (s : State) (v : Frame) : (s.writeFrame v).tx = s.tx := rfl
@[simp] theorem State.writeFrame_inputs (s : State) (v : Frame) : (s.writeFrame v).inputs = s.inputs := rfl
@[simp] theorem State.writeFrame_responses (s : State) (v : Frame) : (s.writeFrame v).responses = s.responses := rfl

@[simp] theorem State.writeSaved_frame (s : State) (t : BitVec 8) (f : Bool) : (s.writeSaved t f).frame = s.frame := rfl
@[simp] theorem State.writeSaved_savedTemp (s : State) (t : BitVec 8) (f : Bool) : (s.writeSaved t f).savedTemp = t := rfl
@[simp] theorem State.writeSaved_savedUnit (s : State) (t : BitVec 8) (f : Bool) : (s.writeSaved t f).savedUnit = f := rfl
@[simp] theorem State.writeSaved_cap (s : State) (t : BitVec 8) (f : Bool) : (s.writeSaved t f).cap = s.cap := rfl
@[simp] theorem State.writeSaved_capLen (s : State) (t : BitVec 8) (f : Bool) : (s.writeSaved t f).capLen = s.capLen := rfl
@[simp] theorem State.writeSaved_tx (s : State) (t : BitVec 8) (f : Bool) : (s.writeSaved t f).tx = s.tx := rfl
@[simp] theorem State.writeSaved_inputs (s : State) (t : BitVec 8) (f : Bool) : (s.writeSaved t f).inputs = s.inputs := rfl
@[simp] theorem State.writeSaved_responses (s : State) (t : BitVec 8) (f : Bool) : (s.writeSaved t f).responses = s.responses := rfl

@[simp] theorem State.writeCapLen_frame (s : State) (n : BitVec 16) : (s.writeCapLen n).frame = s.frame := rfl
@[simp] theorem State.writeCapLen_savedTemp (s : State) (n : BitVec 16) : (s.writeCapLen n).savedTemp = s.savedTemp := rfl
@[simp] theorem State.writeCapLen_savedUnit (s : State) (n : BitVec 16) : (s.writeCapLen n).savedUnit = s.savedUnit := rfl
@[simp] theorem State.writeCapLen_cap (s : State) (n : BitVec 16) : (s.writeCapLen n).cap = s.cap := rfl
@[simp] theorem State.writeCapLen_capLen (s : State) (n : BitVec 16) : (s.writeCapLen n).capLen = n := rfl
@[simp] theorem State.writeCapLen_tx (s : State) (n : BitVec 16) : (s.writeCapLen n).tx = s.tx := rfl
@[simp] theorem State.writeCapLen_inputs (s : State) (n : BitVec 16) : (s.writeCapLen n).inputs = s.inputs := rfl
@[simp] theorem State.writeCapLen_responses (s : State) (n : BitVec 16) : (s.writeCapLen n).responses = s.responses := rfl

@[simp] theorem State.respond_frame (s : State) (r : Response) : (s.respond r).frame = s.frame := rfl
@[simp] theorem State.respond_savedTemp (s : State) (r : Response) : (s.respond r).savedTemp = s.savedTemp := rfl
@[simp] theorem State.respond_savedUnit (s : State) (r : Response) : (s.respond r).savedUnit = s.savedUnit := rfl
@[simp] theorem State.respond_cap (s : State) (r : Response) : (s.respond r).cap = s.cap := rfl
@[simp] theorem State.respond_capLen (s : State) (r : Response) : (s.respond r).capLen = s.capLen := rfl
@[simp] theorem State.respond_tx (s : State) (r : Response) : (s.respond r).tx = s.tx := rfl
@[simp] theorem State.respond_inputs (s : State) (r : Response) : (s.respond r).inputs = s.inputs := rfl
@[simp] theorem State.respond_responses (s : State) (r : Response) : (s.respond r).responses = s.responses ++ [r] := rfl

@[simp] theorem State.emitAll_frame (p : Params) (s : State) (xs : List Pulse) :
    (State.emitAll p s xs).frame = s.frame := rfl
@[simp] theorem State.emitAll_savedTemp (p : Params) (s : State) (xs : List Pulse) :
    (State.emitAll p s xs).savedTemp = s.savedTemp := rfl
@[simp] theorem State.emitAll_savedUnit (p : Params) (s : State) (xs : List Pulse) :
    (State.emitAll p s xs).savedUnit = s.savedUnit := rfl
@[simp] theorem State.emitAll_cap (p : Params) (s : State) (xs : List Pulse) :
    (State.emitAll p s xs).cap = s.cap := rfl
@[simp] theorem State.emitAll_capLen (p : Params) (s : State) (xs : List Pulse) :
    (State.emitAll p s xs).capLen = s.capLen := rfl
@[simp] theorem State.emitAll_tx (p : Params) (s : State) (xs : List Pulse) :
    (State.emitAll p s xs).tx = s.tx ++ xs.map (segmentOf p) := rfl
@[simp] theorem State.emitAll_inputs (p : Params) (s : State) (xs : List Pulse) :
    (State.emitAll p s xs).inputs = s.inputs := rfl
@[simp] theorem State.emitAll_responses (p : Params) (s : State) (xs : List Pulse) :
    (State.emitAll p s xs).responses = s.responses := rfl

@[simp] theorem State.applyTemp_frame (p : Params) (s : State) (d : Nat) (f : Bool) :
    (State.applyTemp p s d f).frame = setTempField (setUnitF s.frame f) (BitVec.ofNat 8 (tempclamp p d f)) := rfl
@[simp] theorem State.applyTemp_savedTemp (p : Params) (s : State) (d : Nat) (f : Bool) :
    (State.applyTemp p s d f).savedTemp = BitVec.ofNat 8 (tempclamp p d f) := rfl
@[simp] theorem State.applyTemp_savedUnit (p : Params) (s : State) (d : Nat) (f : Bool) :
    (State.applyTemp p s d f).savedUnit = f := rfl
@[simp] theorem State.applyTemp_cap (p : Params) (s : State) (d : Nat) (f : Bool) :
    (State.applyTemp p s d f).cap = s.cap := rfl
@[simp] theorem State.applyTemp_capLen (p : Params) (s : State) (d : Nat) (f : Bool) :
    (State.applyTemp p s d f).capLen = s.capLen := rfl
@[simp] theorem State.applyTemp_tx (p : Params) (s : State) (d : Nat) (f : Bool) :
    (State.applyTemp p s d f).tx = s.tx := rfl
@[simp] theorem State.applyTemp_inputs (p : Params) (s : State) (d : Nat) (f : Bool) :
    (State.applyTemp p s d f).inputs = s.inputs := rfl
@[simp] theorem State.applyTemp_responses (p : Params) (s : State) (d : Nat) (f : Bool) :
    (State.applyTemp p s d f).responses = s.responses := rfl

@[simp] theorem State.applyFan_frame (p : Params) (s : State) (v : Nat) :
    (State.applyFan p s v).frame = setFanField s.frame (fannorm p v (getModeField s.frame).toNat) := rfl
@[simp] theorem State.applyFan_savedTemp (p : Params) (s : State) (v : Nat) :
    (State.applyFan p s v).savedTemp = s.savedTemp := rfl
@[simp] theorem State.applyFan_savedUnit (p : Params) (s : State) (v : Nat) :
    (State.applyFan p s v).savedUnit = s.savedUnit := rfl
@[simp] theorem State.applyFan_cap (p : Params) (s : State) (v : Nat) :
    (State.applyFan p s v).cap = s.cap := rfl
@[simp] theorem State.applyFan_capLen (p : Params) (s : State) (v : Nat) :
    (State.applyFan p s v).capLen = s.capLen := rfl
@[simp] theorem State.applyFan_tx (p : Params) (s : State) (v : Nat) :
    (State.applyFan p s v).tx = s.tx := rfl
@[simp] theorem State.applyFan_inputs (p : Params) (s : State) (v : Nat) :
    (State.applyFan p s v).inputs = s.inputs := rfl
@[simp] theorem State.applyFan_responses (p : Params) (s : State) (v : Nat) :
    (State.applyFan p s v).responses = s.responses := rfl

@[simp] theorem State.applyMode_frame (p : Params) (s : State) (m : Nat) :
    (State.applyMode p s m).frame = setModeField s.frame (modenorm p m) := rfl
@[simp] theorem State.applyMode_savedTemp (p : Params) (s : State) (m : Nat) :
    (State.applyMode p s m).savedTemp = s.savedTemp := rfl
@[simp] theorem State.applyMode_savedUnit (p : Params) (s : State) (m : Nat) :
    (State.applyMode p s m).savedUnit = s.savedUnit := rfl
@[simp] theorem State.applyMode_cap (p : Params) (s : State) (m : Nat) :
    (State.applyMode p s m).cap = s.cap := rfl
@[simp] theorem State.applyMode_capLen (p : Params) (s : State) (m : Nat) :
    (State.applyMode p s m).capLen = s.capLen := rfl
@[simp] theorem State.applyMode_tx (p : Params) (s : State) (m : Nat) :
    (State.applyMode p s m).tx = s.tx := rfl
@[simp] theorem State.applyMode_inputs (p : Params) (s : State) (m : Nat) :
    (State.applyMode p s m).inputs = s.inputs := rfl
@[simp] theorem State.applyMode_responses (p : Params) (s : State) (m : Nat) :
    (State.applyMode p s m).responses = s.responses := rfl

@[simp] theorem State.hardwareReset_frame (s : State) : s.hardwareReset.frame = 0x0000010114000000#64 := rfl
@[simp] theorem State.hardwareReset_savedTemp (s : State) : s.hardwareReset.savedTemp = 20#8 := rfl
@[simp] theorem State.hardwareReset_savedUnit (s : State) : s.hardwareReset.savedUnit = false := rfl
@[simp] theorem State.hardwareReset_cap (s : State) : s.hardwareReset.cap = [] := rfl
@[simp] theorem State.hardwareReset_capLen (s : State) : s.hardwareReset.capLen = 0#16 := rfl
@[simp] theorem State.hardwareReset_tx (s : State) : s.hardwareReset.tx = [] := rfl
@[simp] theorem State.hardwareReset_inputs (s : State) : s.hardwareReset.inputs = s.inputs := rfl
@[simp] theorem State.hardwareReset_responses (s : State) : s.hardwareReset.responses = [] := rfl

@[simp] theorem State.reset_frame : State.reset.frame = 0x0000010114000000#64 := rfl
@[simp] theorem State.reset_savedTemp : State.reset.savedTemp = 20#8 := rfl
@[simp] theorem State.reset_savedUnit : State.reset.savedUnit = false := rfl
@[simp] theorem State.reset_cap : State.reset.cap = [] := rfl
@[simp] theorem State.reset_capLen : State.reset.capLen = 0#16 := rfl
@[simp] theorem State.reset_tx : State.reset.tx = [] := rfl
@[simp] theorem State.reset_inputs : State.reset.inputs = [] := rfl
@[simp] theorem State.reset_responses : State.reset.responses = [] := rfl

end Sys2Proof.Machine
end

