-- ==== Sys2Proof/Laws/Ops.lean ====
section
/-! SUPPORT. What each shared operation can do, said once. -/

namespace Sys2Proof.Machine

/-- A command that ends with a value always answers a next state. -/
theorem State.answer_eq (s : State) (v : BitVec 64) : s.answer v = .next (s.respond (okResponse v)) := rfl

/-- Taking an ERR or a FAIL: the response is the only effect (R237). -/
theorem State.takeStop_err (s : State) (c : ErrCause) : s.takeStop (.err c) = .next (s.respond errResponse) := rfl
theorem State.takeStop_fail (s : State) (c : FailCause) : s.takeStop (.fail c) = .next (s.respond failResponse) := rfl

/-- How a command with tests can answer a next state: as it should, or with an ERR or a FAIL and no other effect. -/
theorem State.conclude_next {s t : State} {x : Except Stop (State × Response)} (h : s.conclude x = .next t) :
    (∃ u r, x = .ok (u, r) ∧ t = u.respond r)
      ∨ (∃ c, x = .error (.err c) ∧ t = s.respond errResponse)
      ∨ (∃ c, x = .error (.fail c) ∧ t = s.respond failResponse) := by
  match x, h with
  | .ok (u, r), h => exact .inl ⟨u, r, rfl, by cases h; rfl⟩
  | .error (.err c), h => exact .inr (.inl ⟨c, rfl, by cases h; rfl⟩)
  | .error (.fail c), h => exact .inr (.inr ⟨c, rfl, by cases h; rfl⟩)

/-- CapRead of a valid entry (R62). -/
theorem capRead_of_entryAt {s : State} {i : Nat} {m : Entry} (h : s.entryAt i = some m) : capRead s i = .ok m := by
  unfold State.entryAt at h
  split at h
  · next hi => simp [capRead, hi, h]
  · cases h

/-- CapRead has a value only at a valid entry (R62). -/
theorem entryAt_of_capRead {s : State} {i : Nat} {m : Entry} (h : capRead s i = .ok m) : s.entryAt i = some m := by
  unfold capRead at h
  split at h
  · next hi =>
    split at h
    · next v hv => cases h; simp [State.entryAt, hi, hv]
    · cases h
  · cases h

/-- Every index below CAP_LEN can be read in a state that meets the invariant. -/
theorem MachineInv.entryAt {s : State} (hs : MachineInv s) {i : Nat} (hi : i < s.capLen.toNat) : ∃ m, s.entryAt i = some m := by
  obtain ⟨m, hm⟩ := hs.cap_filled i hi
  exact ⟨m, by simp [State.entryAt, hi, hm]⟩

/-- What the block takes from the outside. -/
theorem fetch_nil {s : State} (h : s.inputs = []) : fetch s = .idle := by simp [fetch, h]
theorem fetch_hardReset {s : State} {rest : List Input} (h : s.inputs = .hardReset :: rest) :
    fetch s = .hardReset { s with inputs := rest } := by simp [fetch, h]
theorem fetch_command {s : State} {w : CommandWord} {rest : List Input} (h : s.inputs = .command w :: rest) :
    fetch s = .command w { s with inputs := rest } := by simp [fetch, h]

/-- What a step that answers a next state has done. -/
theorem step_next {s t : State} (h : step s = .next t) :
    (s.inputs = [] ∧ t = s)
      ∨ (∃ rest, s.inputs = .hardReset :: rest ∧ t = State.hardwareReset { s with inputs := rest })
      ∨ ∃ w rest, s.inputs = .command w :: rest ∧
          ((∃ i, decode w = .ok i ∧ exec i { s with inputs := rest } = .next t)
            ∨ ∃ e, decode w = .error e ∧ t = State.respond { s with inputs := rest } errResponse) := by
  unfold step at h
  match hi : s.inputs with
  | [] => rw [fetch_nil hi] at h; exact .inl ⟨rfl, by cases h; rfl⟩
  | .hardReset :: rest => rw [fetch_hardReset hi] at h; exact .inr (.inl ⟨rest, rfl, by cases h; rfl⟩)
  | .command w :: rest =>
    rw [fetch_command hi] at h
    refine .inr (.inr ⟨w, rest, rfl, ?_⟩)
    match hd : decode w with
    | .ok i => simp only [hd] at h; exact .inl ⟨i, rfl, h⟩
    | .error (.illegalOpcode op) => simp only [hd] at h; exact .inr ⟨_, rfl, by cases h; rfl⟩

end Sys2Proof.Machine
end

