-- ==== Sys2Proof/Laws/Exec.lean ====
section
/-! SUPPORT. One equation per meaning, in the terms of the shared operations: callers cite these and never unfold a
meaning. -/

namespace Sys2Proof.Machine

theorem exec_reset (s : State) :
    exec .reset s = .next (((s.writeFrame 0x0000010114000000#64).writeSaved 20#8 false).respond (okResponse 0)) := rfl
theorem exec_setPower (b : Bool) (s : State) :
    exec (.setPower b) s = .next ((s.writeFrame (setPowerBit s.frame b)).respond (okResponse 0)) := rfl
theorem exec_setTempUnit (b : Bool) (s : State) :
    exec (.setTempUnit b) s = .next ((s.writeFrame (setUnitF s.frame b)).respond (okResponse 0)) := rfl
theorem exec_setSwing (b : Bool) (s : State) :
    exec (.setSwing b) s = .next ((s.writeFrame (setSwingBit s.frame b)).respond (okResponse 0)) := rfl
theorem exec_setSleep (b : Bool) (s : State) :
    exec (.setSleep b) s = .next ((s.writeFrame (setSleepBit s.frame b)).respond (okResponse 0)) := rfl
theorem exec_getPower (s : State) :
    exec .getPower s = .next (s.respond (okResponse (zext64 (getPowerBit s.frame)))) := rfl
theorem exec_getTempUnit (s : State) :
    exec .getTempUnit s = .next (s.respond (okResponse (zext64 (getUnitF s.frame)))) := rfl
theorem exec_getSwing (s : State) :
    exec .getSwing s = .next (s.respond (okResponse (zext64 (getSwingBit s.frame)))) := rfl
theorem exec_getSleep (s : State) :
    exec .getSleep s = .next (s.respond (okResponse (zext64 (getSleepBit s.frame)))) := rfl
theorem exec_getTimerEn (s : State) :
    exec .getTimerEn s = .next (s.respond (okResponse (zext64 (getTimerEnBit s.frame)))) := rfl
theorem exec_getTemp (s : State) :
    exec .getTemp s = .next (s.respond (okResponse (zext64 (getTempField s.frame)))) := rfl
theorem exec_getFan (s : State) :
    exec .getFan s = .next (s.respond (okResponse (zext64 (getFanField s.frame)))) := rfl
theorem exec_getMode (s : State) :
    exec .getMode s = .next (s.respond (okResponse (zext64 (getModeField s.frame)))) := rfl
theorem exec_getTimer (s : State) :
    exec .getTimer s = .next (s.respond (okResponse (BitVec.ofNat 64 (timerMinutes s.frame)))) := rfl
theorem exec_setTemp (d : BitVec 8) (f : Bool) (s : State) :
    exec (.setTemp d f) s = .next ((s.applyTemp Config.machine d.toNat f).respond (okResponse 0)) := rfl
theorem exec_setTempCur (d : BitVec 8) (s : State) :
    exec (.setTempCur d) s = .next ((s.applyTemp Config.machine d.toNat (unitOf s.frame)).respond (okResponse 0)) := rfl
theorem exec_setFan (v : BitVec 8) (s : State) :
    exec (.setFan v) s = .next ((s.applyFan Config.machine v.toNat).respond (okResponse 0)) := rfl

/-- The frame SETMODE leaves before its temperature step (R140 steps 1 and 2). -/
theorem exec_setMode (m : BitVec 8) (s : State) :
    exec (.setMode m) s = .next (((State.applyFan Config.machine (s.applyMode Config.machine m.toNat)
        (getFanField (s.applyMode Config.machine m.toNat).frame).toNat).applyTemp Config.machine
          s.savedTemp.toNat s.savedUnit).respond (okResponse 0)) := rfl

theorem exec_setTimer (m : BitVec 16) (s : State) :
    exec (.setTimer m) s = .next ((s.writeFrame
      (setTimerEnBit (setTimerHours s.frame (clampHours Config.machine (wholeHours m.toNat)))
        (timerEnabled (wholeHours m.toNat)))).respond (okResponse 0)) := rfl
theorem exec_getPacked (s : State) :
    exec .getPacked s = .next ((s.writeFrame (stampFrame Config.machine s.frame)).respond
      (okResponse (stampFrame Config.machine s.frame))) := rfl
theorem exec_loadPacked (v : Frame) (s : State) :
    exec (.loadPacked v) s = .next ((s.writeFrame v).respond (okResponse 0)) := rfl
theorem exec_checksum (v : Frame) (s : State) :
    exec (.checksum v) s = .next (s.respond (okResponse (zext64 (checksum v)))) := rfl
theorem exec_capClr (s : State) : exec .capClr s = .next ((s.writeCapLen 0#16).respond (okResponse 0)) := rfl

theorem exec_encode_legal (v : Frame) (r : BitVec 16) (n : BitVec 8) (s : State) (h : n.toNat ≤ 64) :
    exec (.encode v r n) s = .next ((s.emitAll Config.machine
      (framePasses Config.machine v n.toNat (r.toNat + 1))).respond (okResponse 0)) := by
  show s.conclude (encodeCommand _ _ _ _ _) = _
  rw [encodeCommand, if_neg (by omega)]; rfl

theorem exec_encode_illegal (v : Frame) (r : BitVec 16) (n : BitVec 8) (s : State) (h : 64 < n.toNat) :
    exec (.encode v r n) s = .next (s.respond errResponse) := by
  show s.conclude (encodeCommand _ _ _ _ _) = _
  rw [encodeCommand, if_pos h]; rfl

theorem exec_capPush_full (d : Entry) (s : State) (h : s.capLen.toNat = 1024) :
    exec (.capPush d) s = .next (s.respond errResponse) := by
  show s.conclude (capPushCommand _ _ _) = _
  rw [capPushCommand, if_pos (by simpa using h)]; rfl

theorem exec_capPush_room (d : Entry) (s : State) (h : s.capLen.toNat < 1024) :
    exec (.capPush d) s = .next (State.respond
      { s with cap := Memory.write s.cap s.capLen.toNat d, capLen := s.capLen + 1#16 } (okResponse 0)) := by
  show s.conclude (capPushCommand _ _ _) = _
  have h1 : s.capLen.toNat < Config.machine.capDepth := by simpa using h
  rw [capPushCommand, if_neg (by omega), capWrite, if_pos h1]; rfl

/-- In a state whose CAP_LEN is above CAP_DEPTH, which no run reaches, CAPPUSH has no entry to write. -/
theorem exec_capPush_beyond (d : Entry) (s : State) (h : 1024 < s.capLen.toNat) :
    exec (.capPush d) s = .fault (.capWriteNoSuchEntry s.capLen.toNat) := by
  show s.conclude (capPushCommand _ _ _) = _
  have h1 : Config.machine.capDepth < s.capLen.toNat := by simpa using h
  rw [capPushCommand, if_neg (by omega), capWrite, if_neg (by omega)]; rfl

/-- DECODE never changes anything but the responses. -/
theorem exec_decode_next {b : Bool} {o : BitVec 16} {n : BitVec 8} {s t : State}
    (h : exec (.decode b o n) s = .next t) :
    (∃ v, matchCapture Config.machine s b o.toNat n.toNat = .ok v
        ∧ t = s.respond (Response.decoded Config.machine v n))
      ∨ t = s.respond failResponse ∨ t = s.respond errResponse := by
  rcases State.conclude_next h with ⟨u, r, hx, rfl⟩ | ⟨c, -, rfl⟩ | ⟨c, -, rfl⟩
  · unfold decodeCommand at hx
    split at hx
    · cases hx
    · split at hx
      · cases hx
      · split at hx
        · cases hx
        · split at hx
          · cases hx
          · next v hv => cases hx; exact .inl ⟨v, hv, rfl⟩
  · exact .inr (.inr rfl)
  · exact .inr (.inl rfl)

end Sys2Proof.Machine
end

