-- ==== Sys2Proof/Laws/Decoder.lean ====
section
/-! SUPPORT. The matcher (R205 to R213): what each of DECODE's steps accepts, that they read nothing but the valid
entries, and that in a filled buffer they end in a match or a FAIL. -/

namespace Sys2Proof.Machine

/-! ## What each step accepts -/

theorem require_ok {c : FailCause} {b : Bool} : require c b = .ok () ↔ b = true := by
  cases b <;> simp [require]

theorem require_error {c : FailCause} {b : Bool} {x : Stop} (h : require c b = .error x) : x = .fail c := by
  cases b <;> simp [require] at h; exact h.symm

theorem expectMark_ok {p : Params} {s : State} {i d : Nat} {c : FailCause} :
    expectMark p s i d c = .ok () ↔ ∃ m, s.entryAt i = some m ∧ matchMark p m d = true := by
  unfold expectMark
  match h : capRead s i with
  | .ok m =>
    have he := entryAt_of_capRead h
    simp [require_ok, he]
  | .error x =>
    simp only [reduceCtorEq, false_iff]
    rintro ⟨m, hm, -⟩
    rw [capRead_of_entryAt hm] at h
    cases h

theorem expectSpace_ok {p : Params} {s : State} {i d : Nat} {c : FailCause} :
    expectSpace p s i d c = .ok () ↔ ∃ m, s.entryAt i = some m ∧ matchSpace p m d = true := by
  unfold expectSpace
  match h : capRead s i with
  | .ok m =>
    have he := entryAt_of_capRead h
    simp [require_ok, he]
  | .error x =>
    simp only [reduceCtorEq, false_iff]
    rintro ⟨m, hm, -⟩
    rw [capRead_of_entryAt hm] at h
    cases h

theorem bitOfSpace_ok {p : Params} {sp : Entry} {b : Bool} :
    bitOfSpace p sp = .ok b ↔
      if b then matchSpace p sp p.oneSpaceUs = true
      else matchSpace p sp p.oneSpaceUs = false ∧ matchSpace p sp p.zeroSpaceUs = true := by
  unfold bitOfSpace
  cases h1 : matchSpace p sp p.oneSpaceUs <;> cases h2 : matchSpace p sp p.zeroSpaceUs <;> cases b <;> simp

theorem readBit_ok {p : Params} {s : State} {o k : Nat} {b : Bool} :
    readBit p s o k = .ok b ↔ ∃ mk sp, s.entryAt (o + 2 + 2 * k) = some mk ∧ s.entryAt (o + 3 + 2 * k) = some sp
      ∧ matchMark p mk p.bitMarkUs = true ∧ bitOfSpace p sp = .ok b := by
  unfold readBit
  match h1 : capRead s (o + 2 + 2 * k), h2 : capRead s (o + 3 + 2 * k) with
  | .error x, _ =>
    simp only [reduceCtorEq, false_iff]
    rintro ⟨mk, sp, hm, -⟩
    rw [capRead_of_entryAt hm] at h1; cases h1
  | .ok mk, .error x =>
    simp only [reduceCtorEq, false_iff]
    rintro ⟨mk, sp, -, hs, -⟩
    rw [capRead_of_entryAt hs] at h2; cases h2
  | .ok mk, .ok sp =>
    rw [entryAt_of_capRead h1, entryAt_of_capRead h2]
    cases hm : matchMark p mk p.bitMarkUs <;> simp [require, hm]

/-- The value of `n` bits is below `2^n`, and its bits are the bits read (R207 step 6). -/
theorem readBits_ok {p : Params} {s : State} {o n v : Nat} :
    readBits p s o n = .ok v ↔ v < 2 ^ n ∧ ∀ k, k < n → readBit p s o k = .ok (v.testBit k) := by
  induction n generalizing v with
  | zero =>
    simp only [readBits, Nat.pow_zero, Nat.lt_one_iff, Nat.not_lt_zero, false_implies, implies_true, and_true,
      Except.ok.injEq]
    exact eq_comm
  | succ n ih =>
    rw [readBits]
    constructor
    · intro h
      match hv : readBits p s o n with
      | .error x => rw [hv] at h; cases h
      | .ok u =>
        simp only [hv] at h
        obtain ⟨hu, hbits⟩ := ih.mp hv
        match hb : readBit p s o n with
        | .error x => simp only [hb] at h; cases h
        | .ok b =>
          simp only [hb, Except.ok.injEq] at h
          have hp : 2 ^ (n + 1) = 2 ^ n + 2 ^ n := by rw [Nat.pow_succ]; omega
          cases b
          · simp only [Bool.false_eq_true, if_false] at h
            subst h
            refine ⟨by omega, fun k hk => ?_⟩
            by_cases hkn : k = n
            · subst hkn; rw [hb, Nat.testBit_lt_two_pow hu]
            · exact hbits k (by omega)
          · simp only [if_true] at h
            subst h
            refine ⟨by omega, fun k hk => ?_⟩
            by_cases hkn : k = n
            · subst hkn
              rw [hb, Nat.add_comm, Nat.testBit_two_pow_add_eq, Nat.testBit_lt_two_pow hu]; rfl
            · rw [Nat.add_comm, Nat.testBit_two_pow_add_gt (by omega)]
              exact hbits k (by omega)
    · rintro ⟨hv, hbits⟩
      have hp : 2 ^ (n + 1) = 2 ^ n + 2 ^ n := by rw [Nat.pow_succ]; omega
      have hlow : readBits p s o n = .ok (v % 2 ^ n) := by
        refine ih.mpr ⟨Nat.mod_lt _ (Nat.two_pow_pos n), fun k hk => ?_⟩
        rw [Nat.testBit_mod_two_pow, decide_eq_true hk, Bool.true_and]
        exact hbits k (by omega)
      rw [hlow]
      simp only [hbits n (Nat.lt_succ_self n), Except.ok.injEq]
      by_cases hlt : v < 2 ^ n
      · rw [Nat.testBit_lt_two_pow hlt, Nat.mod_eq_of_lt hlt]; rfl
      · have : v.testBit n = true := by
          have e : v = 2 ^ n + (v - 2 ^ n) := by omega
          rw [e, Nat.testBit_two_pow_add_eq, Nat.testBit_lt_two_pow (by omega)]; rfl
        rw [this, if_pos rfl, Nat.mod_eq_sub_mod (by omega), Nat.mod_eq_of_lt (by omega)]
        omega

theorem checkGap_ok {p : Params} {s : State} {g : Nat} :
    checkGap p s g = .ok () ↔ (g < s.capLen.toNat → ∃ m, s.entryAt g = some m
      ∧ matchAtLeast p m (min p.gapUs p.rxTimeoutUs) = true) := by
  unfold checkGap
  by_cases hg : g < s.capLen.toNat
  · simp only [hg, if_true, true_implies]
    match h : capRead s g with
    | .ok m => simp [require_ok, entryAt_of_capRead h]
    | .error x =>
      simp only [reduceCtorEq, false_iff]
      rintro ⟨m, hm, -⟩
      rw [capRead_of_entryAt hm] at h; cases h
  · simp [hg]

/-- What DECODE's steps 4 to 9 accept (R207), and the value. -/
theorem matchCapture_ok {p : Params} {s : State} {b : Bool} {o n : Nat} {v : Frame} :
    matchCapture p s b o n = .ok v ↔
      expectMark p s o p.hdrMarkUs .hdrMark = .ok () ∧ expectSpace p s (o + 1) p.hdrSpaceUs .hdrSpace = .ok ()
        ∧ (∃ u, readBits p s o n = .ok u ∧ v = BitVec.ofNat 64 u)
        ∧ expectMark p s (o + 2 + 2 * n) p.bitMarkUs .footerMark = .ok ()
        ∧ checkGap p s (o + 3 + 2 * n) = .ok () ∧ sumAccepted p b v = true := by
  unfold matchCapture
  match h1 : expectMark p s o p.hdrMarkUs .hdrMark, h2 : expectSpace p s (o + 1) p.hdrSpaceUs .hdrSpace,
    h3 : readBits p s o n, h4 : expectMark p s (o + 2 + 2 * n) p.bitMarkUs .footerMark,
    h5 : checkGap p s (o + 3 + 2 * n) with
  | .error x, _, _, _, _ => simp
  | .ok (), .error x, _, _, _ => simp
  | .ok (), .ok (), .error x, _, _ => simp
  | .ok (), .ok (), .ok u, .error x, _ => simp
  | .ok (), .ok (), .ok u, .ok (), .error x => simp
  | .ok (), .ok (), .ok u, .ok (), .ok () =>
    cases h6 : sumAccepted p b (BitVec.ofNat 64 u)
    · simp only [require, h6, Bool.false_eq_true, if_false, reduceCtorEq, false_iff]
      rintro ⟨-, -, ⟨u', hu, rfl⟩, -, -, hs⟩
      cases hu
      rw [h6] at hs; cases hs
    · simp only [require, h6, if_true, Except.ok.injEq, true_and]
      constructor
      · rintro rfl; exact ⟨⟨u, rfl, rfl⟩, h6⟩
      · rintro ⟨⟨u', rfl, rfl⟩, -⟩; rfl

/-! ## What the steps read -/

/-- DECODE's steps depend on the state through CAP_LEN and the valid entries only (R207). -/
theorem capRead_congr {s s' : State} (hl : s'.capLen = s.capLen) (he : ∀ i, s'.entryAt i = s.entryAt i) :
    capRead s' = capRead s := by
  funext i
  unfold capRead
  rw [hl]
  by_cases hi : i < s.capLen.toNat
  · have h := he i
    unfold State.entryAt at h
    rw [hl, if_pos hi, if_pos hi] at h
    rw [if_pos hi, if_pos hi, h]
  · rw [if_neg hi, if_neg hi]

theorem readBits_congr {p : Params} {s s' : State} (h : capRead s' = capRead s) (o n : Nat) :
    readBits p s' o n = readBits p s o n := by
  induction n with
  | zero => rfl
  | succ n ih => simp only [readBits, readBit, ih, h]

theorem matchCapture_congr {p : Params} {s s' : State} (hl : s'.capLen = s.capLen)
    (he : ∀ i, s'.entryAt i = s.entryAt i) (b : Bool) (o n : Nat) :
    matchCapture p s' b o n = matchCapture p s b o n := by
  have h := capRead_congr hl he
  simp only [matchCapture, expectMark, expectSpace, checkGap, readBits_congr h, h, hl]

/-- DECODE's end, from its match: the three tests before it do not look at the entries. -/
theorem exec_decode_eq (b : Bool) (o : BitVec 16) (n : BitVec 8) (s : State) :
    exec (.decode b o n) s =
      if 64 < n.toNat then .next (s.respond errResponse)
      else if s.capLen.toNat < o.toNat + 2 * n.toNat + 3 ∨ (b = true ∧ n.toNat ≠ 56) then .next (s.respond failResponse)
      else match matchCapture Config.machine s b o.toNat n.toNat with
        | .ok v => .next (s.respond (Response.decoded Config.machine v n))
        | .error x => s.takeStop x := by
  show s.conclude (decodeCommand _ _ _ _ _) = _
  unfold decodeCommand
  simp only [Config.machine_decodeOverhead, Config.machine_technibelBits]
  by_cases h1 : 64 < n.toNat
  · rw [if_pos h1, if_pos h1]; rfl
  · rw [if_neg h1, if_neg h1]
    by_cases h2 : s.capLen.toNat < o.toNat + 2 * n.toNat + 3
    · rw [if_pos h2, if_pos (.inl h2)]; rfl
    · rw [if_neg h2]
      by_cases h3 : b = true ∧ n.toNat ≠ 56
      · rw [if_pos h3, if_pos (.inr h3)]; rfl
      · rw [if_neg h3, if_neg (by tauto)]
        cases matchCapture Config.machine s b o.toNat n.toNat <;> rfl

/-! ## In a filled buffer, nothing but FAIL -/

theorem expectMark_error {p : Params} {s : State} {i d : Nat} {c : FailCause} {x : Stop}
    (hi : ∃ m, s.entryAt i = some m) (h : expectMark p s i d c = .error x) : x = .fail c := by
  obtain ⟨m, hm⟩ := hi
  rw [expectMark, capRead_of_entryAt hm] at h
  exact require_error h

theorem expectSpace_error {p : Params} {s : State} {i d : Nat} {c : FailCause} {x : Stop}
    (hi : ∃ m, s.entryAt i = some m) (h : expectSpace p s i d c = .error x) : x = .fail c := by
  obtain ⟨m, hm⟩ := hi
  rw [expectSpace, capRead_of_entryAt hm] at h
  exact require_error h

theorem readBits_error {p : Params} {s : State} {o n : Nat} {x : Stop}
    (hi : ∀ i, i < o + 2 + 2 * n → ∃ m, s.entryAt i = some m) (h : readBits p s o n = .error x) :
    ∃ c, x = .fail c := by
  induction n with
  | zero => cases h
  | succ n ih =>
    rw [readBits] at h
    match hv : readBits p s o n with
    | .error y => rw [hv] at h; cases h; exact ih (fun i hlt => hi i (by omega)) hv
    | .ok u =>
      obtain ⟨mk, hmk⟩ := hi (o + 2 + 2 * n) (by omega)
      obtain ⟨sp, hsp⟩ := hi (o + 3 + 2 * n) (by omega)
      simp only [hv, readBit, capRead_of_entryAt hmk, capRead_of_entryAt hsp] at h
      match hm : require .bitMark (matchMark p mk p.bitMarkUs) with
      | .error y => simp only [hm] at h; cases h; exact ⟨_, require_error hm⟩
      | .ok () =>
        simp only [hm] at h
        match hb : bitOfSpace p sp with
        | .ok b => simp only [hb] at h; cases h
        | .error y =>
          simp only [hb] at h
          cases h
          unfold bitOfSpace at hb
          split at hb
          · cases hb
          · split at hb
            · cases hb
            · cases hb; exact ⟨_, rfl⟩

/-- With every entry up to the footer mark valid, and every valid entry filled, a match that does not succeed is a
FAIL (R203: "When the test passes, every index read by steps 4 to 7 is below CAP_LEN"). -/
theorem matchCapture_error {s : State} (hs : MachineInv s) {p : Params} {b : Bool} {o n : Nat} {x : Stop}
    (hlen : o + 2 * n + 3 ≤ s.capLen.toNat) (h : matchCapture p s b o n = .error x) : ∃ c, x = .fail c := by
  have hi : ∀ i, i < o + 3 + 2 * n → ∃ m, s.entryAt i = some m := fun i hlt => hs.entryAt (by omega)
  unfold matchCapture at h
  match h1 : expectMark p s o p.hdrMarkUs .hdrMark with
  | .error y => rw [h1] at h; cases h; exact ⟨_, expectMark_error (hi _ (by omega)) h1⟩
  | .ok () =>
    simp only [h1] at h
    match h2 : expectSpace p s (o + 1) p.hdrSpaceUs .hdrSpace with
    | .error y => rw [h2] at h; cases h; exact ⟨_, expectSpace_error (hi _ (by omega)) h2⟩
    | .ok () =>
      simp only [h2] at h
      match h3 : readBits p s o n with
      | .error y => rw [h3] at h; cases h; exact readBits_error (fun i hlt => hi i (by omega)) h3
      | .ok u =>
        simp only [h3] at h
        match h4 : expectMark p s (o + 2 + 2 * n) p.bitMarkUs .footerMark with
        | .error y => rw [h4] at h; cases h; exact ⟨_, expectMark_error (hi _ (by omega)) h4⟩
        | .ok () =>
          simp only [h4] at h
          match h5 : checkGap p s (o + 3 + 2 * n) with
          | .ok () =>
            simp only [h5] at h
            match h6 : require .checksum (sumAccepted p b (BitVec.ofNat 64 u)) with
            | .ok () => simp only [h6] at h; cases h
            | .error y => simp only [h6] at h; cases h; exact ⟨_, require_error h6⟩
          | .error y =>
            rw [h5] at h
            cases h
            unfold checkGap at h5
            split at h5
            · next hg =>
              obtain ⟨m, hm⟩ := hs.entryAt hg
              rw [capRead_of_entryAt hm] at h5
              exact ⟨_, require_error h5⟩
            · cases h5

end Sys2Proof.Machine
end

