-- ==== Sys2Proof/Laws/Encoder.lean ====
section
/-! SUPPORT. The pulse-sequence generator (R182 to R185): lengths, the pulses by index, and that only the sent bits
matter. -/

namespace Sys2Proof.Machine

theorem length_dataPulses (p : Params) (v : Frame) (n : Nat) : (dataPulses p v n).length = 2 * n := by
  induction n with
  | zero => rfl
  | succ n ih => simp [dataPulses, bitPulses, ih]; omega

theorem length_frameSegments (p : Params) (v : Frame) (n : Nat) : (frameSegments p v n).length = 2 * n + 4 := by
  simp [frameSegments, length_dataPulses]

theorem length_framePasses (p : Params) (v : Frame) (n k : Nat) :
    (framePasses p v n k).length = k * (2 * n + 4) := by
  induction k with
  | zero => simp [framePasses]
  | succ k ih => simp [framePasses, length_frameSegments, ih, Nat.succ_mul]; omega

/-- The pulses of the data bits by index: marks at even places, the space of bit `k` at `2k + 1`. -/
theorem getElem?_dataPulses (p : Params) (v : Frame) (n k : Nat) (hk : k < n) :
    (dataPulses p v n)[2 * k]? = some (.mark, p.bitMarkUs)
      ∧ (dataPulses p v n)[2 * k + 1]? = some (.space, if v.getLsbD k then p.oneSpaceUs else p.zeroSpaceUs) := by
  induction n with
  | zero => omega
  | succ n ih =>
    rw [dataPulses]
    by_cases h : k < n
    · rw [List.getElem?_append_left (by rw [length_dataPulses]; omega),
        List.getElem?_append_left (by rw [length_dataPulses]; omega)]
      exact ih h
    · have : k = n := by omega
      subst this
      rw [List.getElem?_append_right (by rw [length_dataPulses]),
        List.getElem?_append_right (by rw [length_dataPulses]; omega), length_dataPulses]
      simp [bitPulses]

/-- A pass of `frameSegments` inside the passes. -/
theorem getElem?_framePasses (p : Params) (v : Frame) (n k q j : Nat) (hq : q < k) (hj : j < 2 * n + 4) :
    (framePasses p v n k)[q * (2 * n + 4) + j]? = (frameSegments p v n)[j]? := by
  induction k generalizing q with
  | zero => omega
  | succ k ih =>
    rw [framePasses]
    cases q with
    | zero => rw [Nat.zero_mul, Nat.zero_add, List.getElem?_append_left (by rw [length_frameSegments]; exact hj)]
    | succ q =>
      have hs : (q + 1) * (2 * n + 4) = q * (2 * n + 4) + (2 * n + 4) := Nat.succ_mul _ _
      rw [List.getElem?_append_right (by rw [length_frameSegments]; omega), length_frameSegments,
        show (q + 1) * (2 * n + 4) + j - (2 * n + 4) = q * (2 * n + 4) + j by omega]
      exact ih q (by omega)

/-- Bits `n` and above are not sent (R183). -/
theorem dataPulses_congr (p : Params) {v v' : Frame} {n : Nat} (h : ∀ k, k < n → v'.getLsbD k = v.getLsbD k) :
    dataPulses p v' n = dataPulses p v n := by
  induction n with
  | zero => rfl
  | succ n ih =>
    rw [dataPulses, dataPulses, ih (fun k hk => h k (by omega)), bitPulses, bitPulses, h n (by omega)]

theorem frameSegments_congr (p : Params) {v v' : Frame} {n : Nat} (h : ∀ k, k < n → v'.getLsbD k = v.getLsbD k) :
    frameSegments p v' n = frameSegments p v n := by
  rw [frameSegments, frameSegments, dataPulses_congr p h]

theorem framePasses_congr (p : Params) {v v' : Frame} {n : Nat} (h : ∀ k, k < n → v'.getLsbD k = v.getLsbD k)
    (k : Nat) : framePasses p v' n k = framePasses p v n k := by
  induction k with
  | zero => rfl
  | succ k ih => rw [framePasses, framePasses, ih, frameSegments_congr p h]

end Sys2Proof.Machine
end

