-- ==== Sys2Proof/Laws/Encoding.lean ====
section
/-! SUPPORT. The fields of an assembled command word (R81), and a field read as a number. -/

namespace Sys2Proof

theorem toNat_assembleWord (op : BitVec 8) (a : BitVec 64) (b c : BitVec 16) :
    (assembleWord op a b c).toNat = op.toNat * 2 ^ 96 + a.toNat * 2 ^ 32 + b.toNat * 2 ^ 16 + c.toNat := by
  have ha := a.isLt
  have hb := b.isLt
  have hc := c.isLt
  unfold assembleWord
  simp only [BitVec.toNat_append]
  rw [← Nat.shiftLeft_add_eq_or_of_lt hc, ← Nat.shiftLeft_add_eq_or_of_lt hb, ← Nat.shiftLeft_add_eq_or_of_lt ha]
  simp only [Nat.shiftLeft_eq]
  omega

theorem toNat_opField (w : CommandWord) : (opField w).toNat = w.toNat / 2 ^ 96 := by
  have := w.isLt
  simp only [opField, BitVec.extractLsb'_toNat, Nat.shiftRight_eq_div_pow]
  omega

theorem toNat_aField (w : CommandWord) : (aField w).toNat = w.toNat / 2 ^ 32 % 2 ^ 64 := by
  simp [aField, Nat.shiftRight_eq_div_pow]

theorem toNat_bField (w : CommandWord) : (bField w).toNat = w.toNat / 2 ^ 16 % 2 ^ 16 := by
  simp [bField, Nat.shiftRight_eq_div_pow]

theorem toNat_cField (w : CommandWord) : (cField w).toNat = w.toNat % 2 ^ 16 := by
  simp [cField]

theorem opField_assembleWord (op : BitVec 8) (a : BitVec 64) (b c : BitVec 16) :
    opField (assembleWord op a b c) = op := by
  apply BitVec.eq_of_toNat_eq
  rw [toNat_opField, toNat_assembleWord]
  have := a.isLt
  have := b.isLt
  have := c.isLt
  omega

theorem aField_assembleWord (op : BitVec 8) (a : BitVec 64) (b c : BitVec 16) :
    aField (assembleWord op a b c) = a := by
  apply BitVec.eq_of_toNat_eq
  rw [toNat_aField, toNat_assembleWord]
  have := op.isLt
  have := a.isLt
  have := b.isLt
  have := c.isLt
  omega

theorem bField_assembleWord (op : BitVec 8) (a : BitVec 64) (b c : BitVec 16) :
    bField (assembleWord op a b c) = b := by
  apply BitVec.eq_of_toNat_eq
  rw [toNat_bField, toNat_assembleWord]
  have := b.isLt
  have := c.isLt
  omega

theorem cField_assembleWord (op : BitVec 8) (a : BitVec 64) (b c : BitVec 16) :
    cField (assembleWord op a b c) = c := by
  apply BitVec.eq_of_toNat_eq
  rw [toNat_cField, toNat_assembleWord]
  have := c.isLt
  omega

/-- A word is its four fields (R81). -/
theorem assembleWord_fields (w : CommandWord) : assembleWord (opField w) (aField w) (bField w) (cField w) = w := by
  apply BitVec.eq_of_toNat_eq
  rw [toNat_assembleWord, toNat_opField, toNat_aField, toNat_bField, toNat_cField]
  have := w.isLt
  omega

/-- A mask laid on a word is laid on each field. -/
theorem assembleWord_and (op op' : BitVec 8) (a a' : BitVec 64) (b b' c c' : BitVec 16) :
    assembleWord op a b c &&& assembleWord op' a' b' c'
      = assembleWord (op &&& op') (a &&& a') (b &&& b') (c &&& c') := by
  apply BitVec.eq_of_getLsbD_eq
  intro k _
  simp only [assembleWord, BitVec.getLsbD_and, BitVec.getLsbD_append]
  by_cases h1 : k < 16
  · simp [h1]
  · by_cases h2 : k - 16 < 16
    · simp [h1, h2]
    · by_cases h3 : k - 16 - 16 < 64 <;> simp [h1, h2, h3]

end Sys2Proof
end

