-- ==== Sys2Proof/Laws/PerInstr.lean ====
section
/-! SUPPORT. Facts about every command as syntax, one lemma per constructor. -/

namespace Sys2Proof.Laws.OpcodeField

/-- The OP field of a command's encoding is its opcode (R81, R84). -/
def Statement (i : Instr) : Prop := opField (encode i) = opcode i

theorem reset : Statement .reset := opField_assembleWord _ _ _ _
theorem setPower (b : Bool) : Statement (.setPower b) := opField_assembleWord _ _ _ _
theorem getPower : Statement .getPower := opField_assembleWord _ _ _ _
theorem setTempUnit (f : Bool) : Statement (.setTempUnit f) := opField_assembleWord _ _ _ _
theorem getTempUnit : Statement .getTempUnit := opField_assembleWord _ _ _ _
theorem setTemp (d : BitVec 8) (f : Bool) : Statement (.setTemp d f) := opField_assembleWord _ _ _ _
theorem setTempCur (d : BitVec 8) : Statement (.setTempCur d) := opField_assembleWord _ _ _ _
theorem getTemp : Statement .getTemp := opField_assembleWord _ _ _ _
theorem setFan (v : BitVec 8) : Statement (.setFan v) := opField_assembleWord _ _ _ _
theorem getFan : Statement .getFan := opField_assembleWord _ _ _ _
theorem setMode (m : BitVec 8) : Statement (.setMode m) := opField_assembleWord _ _ _ _
theorem getMode : Statement .getMode := opField_assembleWord _ _ _ _
theorem setSwing (b : Bool) : Statement (.setSwing b) := opField_assembleWord _ _ _ _
theorem getSwing : Statement .getSwing := opField_assembleWord _ _ _ _
theorem setSleep (b : Bool) : Statement (.setSleep b) := opField_assembleWord _ _ _ _
theorem getSleep : Statement .getSleep := opField_assembleWord _ _ _ _
theorem setTimer (m : BitVec 16) : Statement (.setTimer m) := opField_assembleWord _ _ _ _
theorem getTimer : Statement .getTimer := opField_assembleWord _ _ _ _
theorem getTimerEn : Statement .getTimerEn := opField_assembleWord _ _ _ _
theorem getPacked : Statement .getPacked := opField_assembleWord _ _ _ _
theorem loadPacked (v : Frame) : Statement (.loadPacked v) := opField_assembleWord _ _ _ _
theorem checksum (v : Frame) : Statement (.checksum v) := opField_assembleWord _ _ _ _
theorem encode (v : Frame) (r : BitVec 16) (n : BitVec 8) : Statement (.encode v r n) := opField_assembleWord _ _ _ _
theorem decode (b : Bool) (o : BitVec 16) (n : BitVec 8) : Statement (.decode b o n) := opField_assembleWord _ _ _ _
theorem capClr : Statement .capClr := opField_assembleWord _ _ _ _
theorem capPush (d : Entry) : Statement (.capPush d) := opField_assembleWord _ _ _ _

end Sys2Proof.Laws.OpcodeField
end

