-- ==== Sys2Proof/Tests/Slice0.lean ====
section
/-! SUPPORT. The model's own tests. Expected results: the words of R82 and R84 written out by hand, and the vectors V1 to
V60 of spec/95_test_vectors.md, named at each test. Each runs one step. The last part holds, for every obligation that has
hypotheses, a concrete state and operands that meet them. -/

namespace Sys2Proof.Tests

open Sys2Proof Sys2Proof.Machine

/-! ## Helpers -/

/-- The reset state with another frame. -/
def withFrame (v : Frame) : State := { State.reset with frame := v }

/-- The reset state with a capture of the given durations. -/
def withCapture (ds : List Nat) : State :=
  { State.reset with
    cap := (List.range ds.length).zip (ds.map (BitVec.ofNat 32)), capLen := BitVec.ofNat 16 ds.length }

/-- The next state, if the command gives one. -/
def after (i : Instr) (s : State) : Option State :=
  match exec i s with
  | .next t => some t
  | _ => none

/-- FRAME, SAVED_TEMP, SAVED_UNIT after a command that answers OK 0. -/
def regsAfter (i : Instr) (s : State) : Option (Frame × BitVec 8 × Bool) :=
  (after i s).bind fun t => if t.responses = s.responses ++ [okResponse 0] then some (t.frame, t.savedTemp, t.savedUnit)
    else none

/-- STATUS and VAL of the response, if the command changes nothing but the responses. -/
def pureReply (i : Instr) (s : State) : Option (Status × BitVec 64) :=
  (after i s).bind fun t => if { t with responses := s.responses } = s then
      t.responses.getLast?.map fun r => (r.status, r.val) else none

/-- STATUS, VAL and BITS of DECODE under a parameter set. -/
def decodeReply (p : Params) (s : State) (b : Bool) (o : Nat) (n : BitVec 8) : Option (BitVec 64 × BitVec 8) :=
  match decodeCommand p s b o n with
  | .ok (_, r) => if r.status = .ok then some (r.val, r.bits) else none
  | .error _ => none

/-- Which cause a DECODE ends with. -/
def decodeCause (s : State) (b : Bool) (o : Nat) (n : BitVec 8) : Option Stop :=
  match decodeCommand { strictVerifiesSum := false, protocolId := 0 } s b o n with
  | .ok _ => none
  | .error x => some x

/-- The durations of the capture of V30, written out from its table. -/
def v30 : List Nat :=
  [8836, 4380] ++
  [523, 564, 523, 1696, 523, 564, 523, 564, 523, 564, 523, 1696, 523, 1696, 523, 564] ++
  [523, 564, 523, 564, 523, 564, 523, 564, 523, 564, 523, 564, 523, 564, 523, 564] ++
  [523, 564, 523, 564, 523, 564, 523, 564, 523, 564, 523, 564, 523, 564, 523, 564] ++
  [523, 1696, 523, 564, 523, 564, 523, 1696, 523, 1696, 523, 564, 523, 564, 523, 564] ++
  [523, 1696, 523, 564, 523, 564, 523, 564, 523, 564, 523, 564, 523, 564, 523, 564] ++
  [523, 564, 523, 564, 523, 1696, 523, 564, 523, 564, 523, 564, 523, 564, 523, 1696] ++
  [523, 564, 523, 564, 523, 564, 523, 1696, 523, 1696, 523, 564, 523, 564, 523, 564] ++
  [523, 100000]

/-! ## Well-formedness: a term each check refuses, and its neighbour that passes -/

theorem test_wf_encode_65 : (Instr.encode 0 0 65).wellFormed = false := by decide
theorem test_wf_encode_64 : (Instr.encode 0 0 64).wellFormed = true := by decide
theorem test_wf_decode_65 : (Instr.decode true 0 65).wellFormed = false := by decide
theorem test_wf_decode_64 : (Instr.decode true 0 64).wellFormed = true := by decide

/-- A parameter set to spoil. -/
def someParams : Params := { strictVerifiesSum := true, protocolId := 7 }

theorem test_wf_params : someParams.wellFormed = true := by decide
theorem test_wf_tempC_order : { someParams with tempMinC := 31 }.wellFormed = false := by decide
theorem test_wf_tempC_byte : { someParams with tempMaxC := 256 }.wellFormed = false := by decide
theorem test_wf_tempF_order : { someParams with tempMinF := 87 }.wellFormed = false := by decide
theorem test_wf_tempF_byte : { someParams with tempMaxF := 256 }.wellFormed = false := by decide
theorem test_wf_timer_byte : { someParams with timerMaxHours := 256 }.wellFormed = false := by decide
theorem test_wf_tolerance : { someParams with tolerancePct := 101 }.wellFormed = false := by decide
theorem test_wf_tick : { someParams with rawTickUs := 0 }.wellFormed = false := by decide
theorem test_wf_bits : { someParams with technibelBits := 65 }.wellFormed = false := by decide
theorem test_wf_fan_low_med : { someParams with fanLow := 2 }.wellFormed = false := by decide
theorem test_wf_fan_med_high : { someParams with fanMed := 4 }.wellFormed = false := by decide
theorem test_wf_frameWidth : { someParams with frameWidth := 63 }.wellFormed = false := by decide
theorem test_wf_capWidth : { someParams with capWidth := 16 }.wellFormed = false := by decide

/-! ## Decoding: one word per command, written out from R82 and R84 (most are words of the vectors) -/

theorem test_decode_reset : decodeTableWord 104 0x01000000000000000000000000 = some .reset := by decide
theorem test_decode_setPower : decodeTableWord 104 0x02000000000000000000000001 = some (.setPower true) := by decide
theorem test_decode_getPower : decodeTableWord 104 0x03000000000000000000000000 = some .getPower := by decide
theorem test_decode_setTempUnit : decodeTableWord 104 0x04000000000000000000000001 = some (.setTempUnit true) := by decide
theorem test_decode_getTempUnit : decodeTableWord 104 0x05000000000000000000000000 = some .getTempUnit := by decide
theorem test_decode_setTemp : decodeTableWord 104 0x06000000000000000000460001 = some (.setTemp 70 true) := by decide
theorem test_decode_setTempCur : decodeTableWord 104 0x07000000000000000000190000 = some (.setTempCur 25) := by decide
theorem test_decode_getTemp : decodeTableWord 104 0x08000000000000000000000000 = some .getTemp := by decide
theorem test_decode_setFan : decodeTableWord 104 0x09000000000000000000020000 = some (.setFan 2) := by decide
theorem test_decode_getFan : decodeTableWord 104 0x0A000000000000000000000000 = some .getFan := by decide
theorem test_decode_setMode : decodeTableWord 104 0x0B000000000000000000040000 = some (.setMode 4) := by decide
theorem test_decode_getMode : decodeTableWord 104 0x0C000000000000000000000000 = some .getMode := by decide
theorem test_decode_setSwing : decodeTableWord 104 0x0D000000000000000000000001 = some (.setSwing true) := by decide
theorem test_decode_getSwing : decodeTableWord 104 0x0E000000000000000000000000 = some .getSwing := by decide
theorem test_decode_setSleep : decodeTableWord 104 0x0F000000000000000000000001 = some (.setSleep true) := by decide
theorem test_decode_getSleep : decodeTableWord 104 0x10000000000000000000000000 = some .getSleep := by decide
theorem test_decode_setTimer : decodeTableWord 104 0x110000000000000000005A0000 = some (.setTimer 90) := by decide
theorem test_decode_getTimer : decodeTableWord 104 0x12000000000000000000000000 = some .getTimer := by decide
theorem test_decode_getTimerEn : decodeTableWord 104 0x13000000000000000000000000 = some .getTimerEn := by decide
theorem test_decode_getPacked : decodeTableWord 104 0x14000000000000000000000000 = some .getPacked := by decide
theorem test_decode_loadPacked :
    decodeTableWord 104 0x1500180101140000EA00000000 = some (.loadPacked 0x00180101140000EA) := by decide
theorem test_decode_checksum :
    decodeTableWord 104 0x20001884011900006200000000 = some (.checksum 0x0018840119000062) := by decide
theorem test_decode_encode :
    decodeTableWord 104 0x21001884011900006200010038 = some (.encode 0x0018840119000062 1 56) := by decide
theorem test_decode_decode :
    decodeTableWord 104 0x22000000000000000100740038 = some (.decode true 0x74 56) := by decide
theorem test_decode_capClr : decodeTableWord 104 0x23000000000000000000000000 = some .capClr := by decide
theorem test_decode_capPush :
    decodeTableWord 104 0x24000000000000228400000000 = some (.capPush 8836) := by decide

/-- V12: unused bits are ignored. -/
theorem test_decode_unused_bits :
    decodeTableWord 104 0x02FFFFFFFFFFFFFFFFFFFFFFFF = some (.setPower true)
      ∧ decodeTableWord 104 0x02000000000000000000000002 = some (.setPower false)
      ∧ decodeTableWord 104 0x09000000000000000001020000 = some (.setFan 2)
      ∧ decodeTableWord 104 0x22FFFFFFFFFFFFFFFE00000138 = some (.decode false 0 56)
      ∧ decodeTableWord 104 0x21000000000000000000000141 = some (.encode 0 0 65) := by decide

/-- V60: OP values that are no command, at every edge of R84's ranges. -/
theorem test_decode_illegal :
    decode 0x00000000000000000000000000#104 = .error (.illegalOpcode 0x00)
      ∧ decode 0x16001884011900006200000038#104 = .error (.illegalOpcode 0x16)
      ∧ decode 0x1F000000000000000000000000#104 = .error (.illegalOpcode 0x1F)
      ∧ decode 0x25000000000000000000000000#104 = .error (.illegalOpcode 0x25)
      ∧ decode 0x80000000000000000000000000#104 = .error (.illegalOpcode 0x80)
      ∧ decode 0xFFFFFFFFFFFFFFFFFFFFFFFFFF#104 = .error (.illegalOpcode 0xFF) := ⟨rfl, rfl, rfl, rfl, rfl, rfl⟩

/-- The encoder writes the words of V13, V30, V43, V57. -/
theorem test_encode_words :
    encode (.setTemp 70 true) = 0x06000000000000000000460001#104
      ∧ encode (.encode 0x0018840119000062 1 56) = 0x21001884011900006200010038#104
      ∧ encode (.decode true 116 56) = 0x22000000000000000100740038#104
      ∧ encode (.capPush 100000) = 0x2400000000000186A000000000#104 := by decide

/-! ## The assembler (R90, R91) -/

theorem test_assemble_names :
    assemble someParams "SETMODE" [.heat] = some (.one (.setMode 8))
      ∧ assemble someParams "SETFAN" [.med] = some (.one (.setFan 2))
      ∧ assemble someParams "SETTEMP" [.num 70, .fahrenheit] = some (.one (.setTemp 70 true)) := by decide
theorem test_assemble_pseudo :
    assemble someParams "ON" [] = some (.one (.setPower true))
      ∧ assemble someParams "SETTEMP" [.num 25] = some (.one (.setTempCur 25))
      ∧ assemble someParams "TIMEROFF" [] = some (.one (.setTimer 0)) := by decide
/-- The order of ENCODE's and DECODE's written operands: frame, bitCount, repeatCount; offset, bitCount, strict. -/
theorem test_assemble_order :
    assemble someParams "ENCODE" [.num 0xA5, .num 8, .num 3] = some (.one (.encode 0xA5 3 8))
      ∧ assemble someParams "DECODE" [.num 116, .num 56, .num 1] = some (.one (.decode true 116 56)) := by decide
theorem test_assemble_too_big : assemble someParams "SETTEMPCUR" [.num 256] = none := by decide

/-! ## The step -/

/-- A word put where the next step takes it runs (`SETPOWER 1` from reset, V10). -/
theorem test_step_withFetchWord :
    step (State.reset.withFetchWord 104 0x02000000000000000000000001)
      = .next { State.reset with frame := 0x0000810114000000, responses := [okResponse 0] } := rfl
/-- V60: an illegal word answers ERR and changes nothing. -/
theorem test_step_illegal :
    step (State.reset.withFetchWord 104 0x16001884011900006200000038)
      = .next { State.reset with responses := [errResponse] } := rfl
theorem test_step_idle : step State.reset = .next State.reset := rfl
theorem test_step_hardReset :
    step { withCapture [8836] with frame := 0, tx := [⟨.mark, 523, 38000, 50⟩], inputs := [.hardReset, .command 7] }
      = .next { State.reset with inputs := [.command 7] } := rfl

/-! ## Single-bit fields (V10, V11) -/

theorem test_setPower : regsAfter (.setPower true) State.reset = some (0x0000810114000000, 20, false) := by decide
theorem test_setPower_off :
    regsAfter (.setPower false) (withFrame 0x0000810114000000) = some (0x0000010114000000, 20, false) := by decide
theorem test_setTempUnit : regsAfter (.setTempUnit true) State.reset = some (0x0000014114000000, 20, false) := by decide
theorem test_setSwing : regsAfter (.setSwing true) State.reset = some (0x0000012114000000, 20, false) := by decide
theorem test_setSleep : regsAfter (.setSleep true) State.reset = some (0x0000011114000000, 20, false) := by decide
theorem test_setSleep_off :
    regsAfter (.setSleep false) (withFrame 0xFFFFFFFFFFFFFFFF) = some (0xFFFFFFEFFFFFFFFF, 20, false) := by decide
theorem test_getPower : pureReply .getPower (withFrame 0x0000800000000000) = some (.ok, 1) := by decide
theorem test_getTempUnit : pureReply .getTempUnit (withFrame 0x0000004000000000) = some (.ok, 1) := by decide
theorem test_getSwing : pureReply .getSwing (withFrame 0x0000002000000000) = some (.ok, 1) := by decide
theorem test_getSleep : pureReply .getSleep (withFrame 0x0000001000000000) = some (.ok, 1) := by decide
theorem test_getTimerEn : pureReply .getTimerEn (withFrame 0x0000008000000000) = some (.ok, 1) := by decide
theorem test_getters_of_other_bits :
    (pureReply .getPower (withFrame 0x0000004000000000), pureReply .getSwing (withFrame 0x0000001000000000),
      pureReply .getSleep (withFrame 0x0000002000000000)) = (some (.ok, 0), some (.ok, 0), some (.ok, 0)) := by decide

/-! ## Temperature, fan, mode, timer (V13 to V18) -/

theorem test_setTemp_low_C : regsAfter (.setTemp 15 false) State.reset = some (0x0000010110000000, 16, false) := by decide
theorem test_setTemp_high_F : regsAfter (.setTemp 87 true) State.reset = some (0x0000014156000000, 86, true) := by decide
/-- V14: the unit is FRAME's, not SAVED_UNIT. -/
theorem test_setTempCur_F :
    regsAfter (.setTempCur 70) (withFrame 0x0000014114000000) = some (0x0000014146000000, 70, true) := by decide
theorem test_setTempCur_C :
    regsAfter (.setTempCur 70) { withFrame 0x0000010146000000 with savedTemp := 70, savedUnit := true }
      = some (0x000001011E000000, 30, false) := by decide
theorem test_getTemp : pureReply .getTemp (withFrame 0x001881221200004B) = some (.ok, 18) := by decide
theorem test_setFan_values :
    [0, 1, 2, 3, 4, 5, 255].map (fun v => (regsAfter (.setFan v) State.reset).map fun x => fieldAt x.1 32 4)
      = [some 1, some 1, some 2, some 1, some 4, some 4, some 4] := by decide
theorem test_setFan_dry : regsAfter (.setFan 4) (withFrame 0x0000020114000000) = some (0x0000020114000000, 20, false) := by
  decide
theorem test_getFan : pureReply .getFan (withFrame 0xFFFFFFF4FFFFFFFF) = some (.ok, 4) := by decide
theorem test_setMode_values :
    [1, 2, 4, 8, 0, 3, 5, 9, 16, 255].map (fun m => (regsAfter (.setMode m) State.reset).map fun x => fieldAt x.1 40 4)
      = [some 1, some 2, some 4, some 8, some 1, some 1, some 1, some 1, some 1, some 1] := by decide
/-- V17: SETMODE 15 on a frame of ones. -/
theorem test_setMode_ones :
    regsAfter (.setMode 15) (withFrame 0xFFFFFFFFFFFFFFFF) = some (0xFFFFF1B414FFFFFF, 20, false) := by decide
theorem test_getMode : pureReply .getMode (withFrame 0xFFFFF8FFFFFFFFFF) = some (.ok, 8) := by decide
theorem test_setTimer_values :
    [0, 59, 60, 119, 1439, 1440, 15360, 65535].map (fun m => (regsAfter (.setTimer m) State.reset).map Prod.fst)
      = [some 0x0000010114000000, some 0x0000010114000000, some 0x0000018114010000, some 0x0000018114010000,
        some 0x0000018114170000, some 0x0000018114180000, some 0x0000018114180000, some 0x0000018114180000] := by decide
/-- V17: SETTIMER 600 on the frame SETMODE 15 left. -/
theorem test_setTimer_ones :
    regsAfter (.setTimer 600) (withFrame 0xFFFFF1B414FFFFFF) = some (0xFFFFF1B4140AFFFF, 20, false) := by decide
theorem test_getTimer_enabled : pureReply .getTimer (withFrame 0x0000008000FF0000) = some (.ok, 15300) := by decide
theorem test_getTimer_disabled : pureReply .getTimer (withFrame 0x0000000000050000) = some (.ok, 0) := by decide

/-! ## Packing (V21 to V25) -/

/-- V24: everything of the frame and the saved pair, nothing of CAP and TX. -/
theorem test_reset :
    after .reset { withCapture [1, 2, 3] with
        frame := 0xFFFFFFFFFFFFFFFF, savedTemp := 86, savedUnit := true, tx := [⟨.mark, 523, 38000, 50⟩] }
      = some { withCapture [1, 2, 3] with tx := [⟨.mark, 523, 38000, 50⟩], responses := [okResponse 0] } := by decide
theorem test_getPacked :
    after .getPacked State.reset
      = some { withFrame 0x00180101140000EA with responses := [okResponse 0x00180101140000EA] } := by decide
/-- V23. -/
theorem test_getPacked_keeps :
    (after .getPacked (withFrame 0xAB008102120000FF)).map State.frame = some 0xAB1881021200006B := by decide
theorem test_loadPacked :
    regsAfter (.loadPacked 0x001881221200004B) State.reset = some (0x001881221200004B, 20, false) := by decide
theorem test_checksum_values :
    [0x0000000000000000, 0x0018840119000062, 0xFFFFFFFFFFFFFFFF, 0x0000000000010000, 0x0000FF0100000000].map
        (fun v => pureReply (.checksum v) State.reset)
      = [some (.ok, 0x00), some (.ok, 0x62), some (.ok, 0x04), some (.ok, 0xFF), some (.ok, 0x00)] := by decide
theorem test_checksum_ignores :
    (pureReply (.checksum 0x123456789ABCDEF0) State.reset, pureReply (.checksum 0x00FF00000000FFFF) State.reset)
      = (some (.ok, 0xDC), some (.ok, 0)) := by decide

/-! ## Encoder (V30 to V35) -/

theorem test_encode_v30 :
    (after (.encode 0xFF18840119000062 0 56) State.reset).map (fun t => t.tx.map fun x => x.durationUs.toNat) = some v30 := by
  decide
/-- V32, two passes. -/
theorem test_encode_no_bits :
    after (.encode 0xFFFFFFFFFFFFFFFF 1 0) State.reset = some { State.reset with
      tx := [⟨.mark, 8836, 38000, 50⟩, ⟨.space, 4380, 38000, 50⟩, ⟨.mark, 523, 38000, 50⟩, ⟨.space, 100000, 38000, 50⟩,
        ⟨.mark, 8836, 38000, 50⟩, ⟨.space, 4380, 38000, 50⟩, ⟨.mark, 523, 38000, 50⟩, ⟨.space, 100000, 38000, 50⟩],
      responses := [okResponse 0] } := by decide
theorem test_encode_65 : pureReply (.encode 0xA5 0 65) State.reset = some (.err, 0) := by decide
/-- V30, V34: the durations of a pass. -/
theorem test_pass_duration :
    pulsesDuration (frameSegments someParams 0x0018840119000062 56) = 187063
      ∧ pulsesDuration (frameSegments someParams 0xFFFFFFFFFFFFFFFF 64) = 255755 := by decide +kernel

/-! ## Decoder (V40 to V58) -/

theorem test_capClr :
    after .capClr (withCapture [8836, 4380]) = some { withCapture [8836, 4380] with
      capLen := 0, responses := [okResponse 0] } := by decide
theorem test_capPush :
    after (.capPush 4380) (withCapture [8836]) = some { withCapture [8836, 4380] with responses := [okResponse 0] } := by decide
/-- V56, the buffer's length taken as full. -/
theorem test_capPush_full : pureReply (.capPush 523) { withCapture [8836] with capLen := 1024 } = some (.err, 0) := by decide

/-- V40, V41, V47. -/
theorem test_decode_v40 :
    decodeReply { strictVerifiesSum := true, protocolId := 0 } (withCapture v30) true 0 56 = some (0x0018840119000062, 56)
      ∧ decodeReply { strictVerifiesSum := false, protocolId := 0 } (withCapture (v30.take 115)) false 0 56
        = some (0x0018840119000062, 56) := by decide
/-- V42, V43b, V44, V46, V48, V49, V50: which test refuses. -/
theorem test_decode_causes :
    decodeCause (withCapture (v30.take 114)) true 0 56 = some (.fail .tooShort)
      ∧ decodeCause (withCapture (5000 :: v30)) true 0 56 = some (.fail .hdrMark)
      ∧ decodeCause (withCapture v30) true 0 55 = some (.fail .strictBitCount)
      ∧ decodeCause (withCapture v30) false 0 55 = some (.fail .gap)
      ∧ decodeCause (withCapture (v30.take 115)) false 1 56 = some (.fail .tooShort)
      ∧ decodeCause (withCapture (v30.take 115)) false 0 0 = some (.fail .gap)
      ∧ decodeCause (withCapture (v30.take 115)) false 0 65 = some (.err .illegalBitCount) := by decide
/-- V43: the offset. -/
theorem test_decode_offset :
    decodeReply { strictVerifiesSum := true, protocolId := 0 } (withCapture (5000 :: v30)) true 1 56
      = some (0x0018840119000062, 56) := by decide
/-- V53: the edges of the windows of the header mark, of the space of bit 0 and of the gap. -/
theorem test_decode_window_edges :
    decodeCause (withCapture (v30.set 0 6663)) false 0 56 = some (.fail .hdrMark)
      ∧ decodeCause (withCapture (v30.set 0 11108)) false 0 56 = none
      ∧ decodeCause (withCapture (v30.set 1 5414)) false 0 56 = some (.fail .hdrSpace)
      ∧ decodeCause (withCapture (v30.set 2 718)) false 0 56 = some (.fail .bitMark)
      ∧ decodeCause (withCapture (v30.set 3 644)) false 0 56 = some (.fail .bitSpace)
      ∧ decodeReply someParams (withCapture (v30.set 3 1234)) false 0 56 = some (0x0018840119000063, 56)
      ∧ decodeCause (withCapture (v30.set 114 428)) false 0 56 = some (.fail .footerMark)
      ∧ decodeCause (withCapture (v30.set 115 0)) false 0 56 = none
      ∧ decodeCause (withCapture (v30.set 115 11249)) false 0 56 = some (.fail .gap) :=
  ⟨by decide, by decide, by decide, by decide, by decide, by decide, by decide, by decide, by decide⟩
/-- V54: the checksum test, under both settings. -/
theorem test_decode_sum :
    decodeReply { strictVerifiesSum := false, protocolId := 0 } (withCapture (v30.set 3 1696)) true 0 56
        = some (0x0018840119000063, 56)
      ∧ decodeReply { strictVerifiesSum := true, protocolId := 0 } (withCapture (v30.set 3 1696)) true 0 56 = none
      ∧ decodeReply { strictVerifiesSum := true, protocolId := 0 } (withCapture (v30.set 3 1696)) false 0 56
        = some (0x0018840119000063, 56) := by decide
/-- V58: ticks of two microseconds. -/
theorem test_decode_ticks :
    decodeReply { rawTickUs := 2, strictVerifiesSum := true, protocolId := 0 } (withCapture (v30.map (· / 2))) true 0 56
      = some (0x0018840119000062, 56) := by decide
/-- V51: the shortest capture, on the machine itself, whatever the protocol identifier. -/
theorem test_decode_v51 :
    exec (.decode false 0 0) (withCapture [8836, 4380, 523])
      = .next { withCapture [8836, 4380, 523] with responses := [⟨.ok, 0, 0, Config.protocolId, 0, 0⟩] } := rfl

/-! ## Witnesses: the hypotheses of the obligations are met, clause by clause, at boundary values -/

/-- `EntryIn` from a computed test. -/
theorem entryIn_of {s : State} {i low high : Nat}
    (h : (s.entryAt i).any (fun m => decide (low ≤ m.toNat) && decide (m.toNat ≤ high)) = true) : EntryIn s i low high := by
  unfold EntryIn
  cases he : s.entryAt i with
  | none => simp [he] at h
  | some m => simpa [he] using h

/-- The capture of V30 in the buffer. -/
def v30State : State := withCapture v30

/-- StepRunsDecodedCommand. -/
theorem witness_StepRunsDecodedCommand :
    { State.reset with inputs := [.command 0x110000000000000000005A0000#104, .hardReset] }.inputs
        = .command 0x110000000000000000005A0000#104 :: [.hardReset]
      ∧ decode 0x110000000000000000005A0000#104 = .ok (.setTimer 90) := ⟨rfl, rfl⟩

/-- IllegalOpcodeAnswersErr: at each edge of the two legal ranges. -/
theorem witness_IllegalOpcodeAnswersErr :
    { State.reset with inputs := [.command (BitVec.ofNat 104 (0x16 <<< 96))] }.inputs
        = [.command (BitVec.ofNat 104 (0x16 <<< 96))]
      ∧ ∀ op ∈ [0x00, 0x16, 0x1F, 0x25, 0xFF], ¬ LegalOpcode ((BitVec.ofNat 104 (op <<< 96)).toNat / 2 ^ 96) := by
  simp [LegalOpcode]

/-- HardwareResetFromEveryState: a state that is not the reset state. -/
theorem witness_HardwareResetFromEveryState :
    { v30State with frame := 0, inputs := [.hardReset, .command 7#104] }.inputs = .hardReset :: [.command 7#104] := rfl

/-- A state with entries, a full word at the port and Fahrenheit saved that meets the invariant. -/
def busyState : State :=
  { withCapture [8836, 4380, 523] with
    savedTemp := 86, savedUnit := true, inputs := [.command 0x22000000000000000000000000#104] }

theorem busyState_inv : MachineInv busyState where
  capLen_le := by decide
  cap_wf := by decide
  cap_depth := by
    intro i v h
    have : i = 0 ∨ i = 1 ∨ i = 2 := by
      simp only [busyState, withCapture, List.length_cons, List.length_nil, List.map_cons, List.map_nil, List.range_succ,
        List.range_zero, List.nil_append, List.cons_append, List.zip_cons_cons, List.zip_nil_left, Memory.read] at h
      split at h
      · omega
      · split at h
        · omega
        · split at h
          · omega
          · cases h
    omega
  cap_filled := by
    intro i h
    have h' : i < 3 := h
    match i, h' with
    | 0, _ => exact ⟨8836, rfl⟩
    | 1, _ => exact ⟨4380, rfl⟩
    | 2, _ => exact ⟨523, rfl⟩
  saved := by unfold SavedConsistent; decide

/-- StepKeepsInvariant, InvariantStatesNeverStop: the step is a DECODE that answers OK. -/
theorem witness_StepKeepsInvariant :
    MachineInv busyState ∧ step busyState
      = .next { busyState with inputs := [], responses := [⟨.ok, 0, 0, Config.protocolId, 0, 0⟩] } := ⟨busyState_inv, rfl⟩

theorem witness_InvariantStatesNeverStop : MachineInv busyState := busyState_inv

/-- OneResponsePerCommand: a response OK, FAIL and ERR. -/
theorem witness_OneResponsePerCommand :
    step { State.reset with inputs := [.command 0x14000000000000000000000000#104] }
        = .next { withFrame 0x00180101140000EA with responses := [okResponse 0x00180101140000EA] }
      ∧ step { State.reset with inputs := [.command 0x22000000000000000000000038#104] }
        = .next { State.reset with responses := [failResponse] }
      ∧ step { State.reset with inputs := [.command 0x21000000000000000000000041#104] }
        = .next { State.reset with responses := [errResponse] } := ⟨rfl, rfl, rfl⟩

/-- StatusesOfEachCommand, FailureChangesNothing: FAIL from DECODE, ERR from ENCODE, DECODE and CAPPUSH. -/
theorem witness_StatusesOfEachCommand :
    exec (.decode true 0 56) State.reset = .next { State.reset with responses := State.reset.responses ++ [failResponse] }
      ∧ exec (.encode 0 0 65) State.reset = .next { State.reset with responses := State.reset.responses ++ [errResponse] }
      ∧ exec (.decode false 0 65) State.reset
        = .next { State.reset with responses := State.reset.responses ++ [errResponse] }
      ∧ exec (.capPush 1) { State.reset with capLen := 1024 }
        = .next { State.reset with capLen := 1024, responses := State.reset.responses ++ [errResponse] } :=
  ⟨rfl, rfl, rfl, rfl⟩

theorem witness_FailureChangesNothing :
    exec (.decode true 0 56) State.reset = .next { State.reset with responses := State.reset.responses ++ [failResponse] }
      ∧ failResponse.status ≠ .ok := ⟨rfl, by decide⟩

/-- OnlyNamedCommandsWriteEachState: for each piece of state, a command that changes it. -/
theorem witness_OnlyNamedCommandsWriteEachState :
    ((after (.encode 0 0 0) State.reset).map fun t => decide (t.tx ≠ State.reset.tx)) = some true
      ∧ ((after (.capPush 5) State.reset).map fun t =>
          decide (t.cap ≠ State.reset.cap) && decide (t.capLen ≠ State.reset.capLen)) = some true
      ∧ ((after (.setTemp 86 true) State.reset).map fun t =>
          decide (t.savedTemp ≠ State.reset.savedTemp) && decide (t.savedUnit ≠ State.reset.savedUnit)
            && decide (fieldAt t.frame 24 8 ≠ 20) && decide (fieldAt t.frame 38 1 ≠ 0)) = some true
      ∧ ((after .getPacked State.reset).map fun t => decide (fieldAt t.frame 48 8 ≠ 0) && decide (fieldAt t.frame 0 8 ≠ 0))
        = some true
      ∧ ((after (.setTimer 90) State.reset).map fun t => decide (fieldAt t.frame 39 1 ≠ 0) && decide (fieldAt t.frame 16 8 ≠ 0))
        = some true
      ∧ ((after (.setMode 2) (withFrame 0x0000010414000000)).map fun t =>
          decide (fieldAt t.frame 40 4 ≠ 1) && decide (fieldAt t.frame 32 4 ≠ 4)) = some true
      ∧ ((after (.setPower true) State.reset).map fun t => decide (fieldAt t.frame 47 1 ≠ 0)) = some true
      ∧ ((after (.setSwing true) State.reset).map fun t => decide (fieldAt t.frame 37 1 ≠ 0)) = some true
      ∧ ((after (.setSleep true) State.reset).map fun t => decide (fieldAt t.frame 36 1 ≠ 0)) = some true := by decide

/-- SavedPairReachesOnlySetMode: a command that writes the pair and one that does not. -/
theorem witness_SavedPairReachesOnlySetMode :
    (∀ m, Instr.setTempCur 25 ≠ .setMode m)
      ∧ exec (.setTempCur 25) State.reset
        = .next { withFrame 0x0000010119000000 with savedTemp := 25, responses := [okResponse 0] }
      ∧ (∀ m, Instr.getPower ≠ .setMode m) ∧ Instr.getPower ≠ .reset ∧ (∀ d f, Instr.getPower ≠ .setTemp d f)
      ∧ (∀ d, Instr.getPower ≠ .setTempCur d)
      ∧ exec .getPower State.reset = .next { State.reset with responses := [okResponse 0] } := by
  refine ⟨?_, rfl, ?_, by decide, ?_, ?_, rfl⟩ <;> intros <;> simp

/-- OpcodeSelectsCommandAndOperands and every `DecodesAs`: for each OP value, the word of ones has it. -/
theorem witness_DecodesAs :
    ∀ op ∈ [0x01, 0x02, 0x03, 0x04, 0x05, 0x06, 0x07, 0x08, 0x09, 0x0A, 0x0B, 0x0C, 0x0D, 0x0E, 0x0F, 0x10, 0x11, 0x12,
        0x13, 0x14, 0x15, 0x20, 0x21, 0x22, 0x23, 0x24],
      (BitVec.ofNat 104 (op <<< 96 + (2 ^ 96 - 1))).toNat / 2 ^ 96 = op := by decide

/-- UnusedBitsAreIgnored: two words that differ in unused bits only (V12). -/
theorem witness_UnusedBitsAreIgnored :
    decode 0x02FFFFFFFFFFFFFFFFFFFFFFFF#104 = .ok (.setPower true)
      ∧ 0x02FFFFFFFFFFFFFFFFFFFFFFFF#104 &&& usedBits (.setPower true)
        = 0x02000000000000000000000001#104 &&& usedBits (.setPower true) := ⟨rfl, by decide⟩

/-- SingleBitGettersAnswerTheirBit, FieldGettersAnswerTheirField, BitSettersAndGettersAgree: members of the lists. -/
theorem witness_getter_lists :
    (Instr.getTimerEn, 39) ∈ [(Instr.getPower, 47), (.getTempUnit, 38), (.getSwing, 37), (.getSleep, 36), (.getTimerEn, 39)]
      ∧ (Instr.getMode, 40, 4) ∈ [(Instr.getTemp, 24, 8), (.getFan, 32, 4), (.getMode, 40, 4)]
      ∧ exec .getSwing State.reset = .next { State.reset with responses := State.reset.responses ++ [okResponse 0] }
      ∧ Instr.getSwing ≠ Instr.getPower :=
  ⟨by simp, by simp, rfl, by decide⟩

/-- ModenormSubstitutesCool: both clauses, at their edges. -/
theorem witness_ModenormSubstitutesCool :
    ((8 : Nat) = 1 ∨ (8 : Nat) = 2 ∨ (8 : Nat) = 4 ∨ (8 : Nat) = 8)
      ∧ ∀ m ∈ [0, 3, 9, 255], m ≠ 1 ∧ m ≠ 2 ∧ m ≠ 4 ∧ m ≠ (8 : Nat) := by decide

/-- CommandsKeepFrameConsistent: a consistent frame and pair, and a command that changes it. -/
theorem witness_CommandsKeepFrameConsistent :
    SavedConsistent State.reset ∧ Consistent State.reset.frame
      ∧ exec (.setMode 2) State.reset = .next { withFrame 0x0000020114000000 with responses := [okResponse 0] }
      ∧ (∀ v, Instr.setMode 2 ≠ .loadPacked v) ∧ ∀ f, Instr.setMode 2 ≠ .setTempUnit f := by
  refine ⟨by unfold SavedConsistent; decide, ?_, rfl, (by intro v h; cases h), (by intro f h; cases h)⟩
  show Consistent 0x0000010114000000#64
  constructor <;> decide

/-- The two edges of a consistent frame: Fahrenheit with 24 hours and Dry. -/
theorem witness_Consistent_edge : Consistent 0x000002C156180000#64 := by constructor <;> decide

/-- SetModeThenSetTimerRepairsFrame: a saved pair at each end of each unit's range, and one that is not consistent. -/
theorem witness_SetModeThenSetTimerRepairsFrame :
    (∀ p ∈ [(16, false), (30, false), (61, true), (86, true)],
        SavedConsistent { withFrame 0xFFFFFFFFFFFFFFFF with savedTemp := p.1, savedUnit := p.2 })
      ∧ ¬ SavedConsistent { State.reset with savedTemp := 31 } := by
  simp [SavedConsistent, State.reset]

/-- GetPackedHidesStaleStamps: a GETPACKED, a getter's answer, and a frame with stale stamps. -/
theorem witness_GetPackedHidesStaleStamps :
    exec .getPacked State.reset
        = .next { withFrame 0x00180101140000EA with responses := [okResponse 0x00180101140000EA] }
      ∧ exec .getTemp State.reset = .next { State.reset with responses := State.reset.responses ++ [okResponse 20] }
      ∧ ∀ k, k < 64 → (8 ≤ k ∧ k < 48) ∨ 56 ≤ k →
          (withFrame 0x00FF0101140000AA).frame.getLsbD k = State.reset.frame.getLsbD k := by
  refine ⟨rfl, rfl, ?_⟩
  decide

/-- ChecksumIsTwosComplementOfSum: the frame's other bits differ; one data byte differs by 0xFF. -/
theorem witness_ChecksumIsTwosComplementOfSum :
    (∀ k, 16 ≤ k → k < 48 → (0xFFFF00000000FFFF#64).getLsbD k = (0#64).getLsbD k)
      ∧ (∀ o' ∈ [16, 24, 32, 40], o' ≠ 40 → fieldAt 0x0000800000000000#64 o' 8 = fieldAt 0x0000810000000000#64 o' 8)
      ∧ fieldAt 0x0000800000000000#64 40 8 = (fieldAt 0x0000810000000000#64 40 8 + 0xFF) % 256 := by
  refine ⟨?_, by decide, by decide⟩
  intro k h1 h2
  have : ∀ k < 48, 16 ≤ k → (0xFFFF00000000FFFF#64).getLsbD k = (0#64).getLsbD k := by decide
  exact this k h2 h1

/-- EncodeAppendsPasses, DecodeRefusesInOrder: the bit counts where the clauses meet. -/
theorem witness_bitCounts : (64#8).toNat ≤ 64 ∧ 64 < (65#8).toNat ∧ 64 < (255#8).toNat := by decide

/-- EncodeAppendsPasses and FrameSegmentsByIndex: the last pass and the last segment. -/
theorem witness_EncodeAppendsPasses : 2 ≤ (2#16).toNat ∧ 131 < 2 * (64#8).toNat + 4 := by decide

/-- EncodeDependsOnSentBitsOnly: operands that differ above the sent bits (V30). -/
theorem witness_EncodeDependsOnSentBitsOnly :
    ∀ k, k < (56#8).toNat → (0xFF18840119000062#64).getLsbD k = (0x0018840119000062#64).getLsbD k := by decide

/-- CapPushAppendsOneEntry: an empty buffer, the last free entry, a full buffer. -/
theorem witness_CapPushAppendsOneEntry :
    State.reset.capLen.toNat < 1024 ∧ { State.reset with capLen := 1023 }.capLen.toNat < 1024
      ∧ { State.reset with capLen := 1024 }.capLen.toNat = 1024 := by decide

/-- CapClrEmptiesTheBuffer: a buffer that is not empty. -/
theorem witness_CapClrEmptiesTheBuffer :
    exec .capClr busyState = .next { busyState with capLen := 0, responses := [okResponse 0] } := rfl

/-- CaptureMemoryReadsBackWrites: a memory in canonical form, and one that is not. -/
theorem witness_CaptureMemoryReadsBackWrites :
    Memory.wf [(0, 8836#32), (1, 4380#32), (1023, 0#32)] = true ∧ Memory.wf [(1, 8836#32), (1, 4380#32)] = false := by decide

/-- DecodeAnswersTheCapturedFrame: the shortest capture, without a gap entry. -/
theorem witness_CaptureHolds_shortest : CaptureHolds busyState 0 0 0#64 where
  hdrMark := entryIn_of (by decide)
  hdrSpace := entryIn_of (by decide)
  bitMark := by intro k h; omega
  bitSpace := by intro k h; omega
  footer := entryIn_of (by decide)
  gap := by intro h; exact absurd h (by decide)
  upper := by intro k _; simp

/-- The same for the whole capture of V30: strict, 56 bits, a gap entry, the checksum right. -/
theorem witness_CaptureHolds_v30 : CaptureHolds v30State 0 56 0x0018840119000062#64 where
  hdrMark := entryIn_of (by decide)
  hdrSpace := entryIn_of (by decide)
  bitMark := by
    have h : ∀ k < 56, (v30State.entryAt (0 + 2 + 2 * k)).any
        (fun m => decide (429 ≤ m.toNat) && decide (m.toNat ≤ 717)) = true := by decide +kernel
    exact fun k hk => entryIn_of (h k hk)
  bitSpace := by
    have h : ∀ k < 56, (v30State.entryAt (0 + 3 + 2 * k)).any (fun m =>
        if (0x0018840119000062#64).getLsbD k then decide (1234 ≤ m.toNat) && decide (m.toNat ≤ 2058)
        else decide (385 ≤ m.toNat) && decide (m.toNat ≤ 643)) = true := by decide +kernel
    intro k hk
    have := h k hk
    split
    · next hb => exact entryIn_of (by simpa only [hb, if_true] using this)
    · next hb => exact entryIn_of (by simpa [hb] using this)
  footer := entryIn_of (by decide +kernel)
  gap := by intro _; exact ⟨100000#32, by decide +kernel, .inr (by decide)⟩
  upper := by
    intro k hk
    by_cases h : k < 64
    · have : ∀ k < 64, 56 ≤ k → (0x0018840119000062#64).getLsbD k = false := by decide
      exact this k h hk
    · exact BitVec.getLsbD_of_ge _ _ (by omega)

/-- DecodeAnswersTheCapturedFrame's and LoopbackDecodesWhatWasEncoded's condition on the checksum holds. -/
theorem witness_checksum_v30 : fieldAt 0x0018840119000062#64 0 8 = checksumNat 0x0018840119000062#64 := by decide

/-- DecodeAnswersNothingElse: one state for each side. -/
theorem witness_DecodeAnswersNothingElse :
    MachineInv busyState ∧ (0#8).toNat ≤ 64
      ∧ exec (.decode true 0 0) busyState = .next { busyState with responses := [failResponse] }
      ∧ exec (.decode false 0 0) busyState
        = .next { busyState with responses := [⟨.ok, 0, 0, Config.protocolId, 0, 0⟩] } :=
  ⟨busyState_inv, by decide, rfl, rfl⟩

/-- DecodeRefusesInOrder: one entry short, and a strict count that is not 56. -/
theorem witness_DecodeRefusesInOrder :
    (withCapture (v30.take 114)).capLen.toNat < (0#16).toNat + 2 * (56#8).toNat + 3
      ∧ ¬ v30State.capLen.toNat < (0#16).toNat + 2 * (56#8).toNat + 3 ∧ (55#8).toNat ≠ 56 := by decide

/-- DecodeReadsOnlyTheCapture: another frame, another pair, and an entry beyond CAP_LEN. -/
theorem witness_DecodeReadsOnlyTheCapture :
    MachineInv busyState
      ∧ ∀ i, { busyState with frame := 0, savedTemp := 16, savedUnit := false, tx := [⟨.mark, 1, 38000, 50⟩] }.entryAt i
        = busyState.entryAt i := ⟨busyState_inv, fun _ => rfl⟩

/-- `CapIs` from a computed test. -/
theorem capIs_of {s : State} {ds : List Nat} (h : s.capLen.toNat = ds.length)
    (h' : ∀ i < ds.length, (s.entryAt i).map BitVec.toNat = ds[i]?) : CapIs s ds := by
  refine ⟨h, fun i hi => ?_⟩
  have := h' i hi
  cases he : s.entryAt i with
  | none => rw [he] at this; simp [hi] at this
  | some m => rw [he] at this; exact ⟨m, rfl, this.symm⟩

/-- LoopbackDecodesWhatWasEncoded: the capture of V30, with and without the gap. -/
theorem witness_LoopbackDecodesWhatWasEncoded :
    CapIs v30State ((frameSegments Config.machine 0x0018840119000062 56).map Prod.snd)
      ∧ CapIs (withCapture (v30.take 115))
        (((frameSegments Config.machine 0x0018840119000062 56).map Prod.snd).dropLast) := by
  constructor
  · have : (frameSegments Config.machine 0x0018840119000062 56).map Prod.snd = v30 := by decide +kernel
    rw [this]; exact capIs_of (by decide +kernel) (by decide +kernel)
  · have : ((frameSegments Config.machine 0x0018840119000062 56).map Prod.snd).dropLast = v30.take 115 := by decide +kernel
    rw [this]; exact capIs_of (by decide +kernel) (by decide +kernel)

/-- SentFrameIsReceived: V20's frame, read out, and its capture. -/
theorem witness_SentFrameIsReceived :
    exec .getPacked (withFrame 0x0000840119000000) = .next { withFrame 0x0000840119000000 with
        frame := 0x0018840119000062,
        responses := (withFrame 0x0000840119000000).responses ++ [okResponse 0x0018840119000062] }
      ∧ CapIs v30State ((frameSegments Config.machine 0x0018840119000062 56).map Prod.snd) :=
  ⟨rfl, witness_LoopbackDecodesWhatWasEncoded.1⟩

/-- SendTransmitsTheReadOut: `SEND` from reset. -/
theorem witness_SendTransmitsTheReadOut :
    HostOp.second someParams .send (okResponse 0x00180101140000EA) = some (.encode 0x00180101140000EA 0 56) := by decide

end Sys2Proof.Tests
end

section
/-! PROOF. The state (10_state.md): what each command can do to it and which command writes which piece of it (R20, R22),
that the saved pair reaches SETMODE only (R42, R43), the state after reset (R51), and the invariant (R46, R62, R151). -/

namespace Sys2Proof.Machine

/-! ## The fields a command writes -/

/-- The "written by" column of R22, read by command. -/
def fieldsWritten : Instr → List FieldPos
  | .reset | .loadPacked _ => Layout.fields
  | .getPacked => [Layout.header, Layout.sum]
  | .setPower _ => [Layout.power]
  | .setTempUnit _ => [Layout.unitF]
  | .setSwing _ => [Layout.swing]
  | .setSleep _ => [Layout.sleep]
  | .setTimer _ => [Layout.timerEn, Layout.timerHours]
  | .setFan _ => [Layout.fan]
  | .setTemp _ _ | .setTempCur _ => [Layout.unitF, Layout.temp]
  | .setMode _ => [Layout.mode, Layout.fan, Layout.unitF, Layout.temp]
  | .getPower | .getTempUnit | .getTemp | .getFan | .getMode | .getSwing | .getSleep | .getTimer | .getTimerEn
  | .checksum _ | .encode _ _ _ | .decode _ _ _ | .capClr | .capPush _ => []

/-! ## A write to one field, seen from the others -/

/-- Two fields of R22 have no bit in common. -/
theorem fields_disjoint : ∀ f ∈ Layout.fields, ∀ g ∈ Layout.fields, f ≠ g →
    f.offset + f.width ≤ g.offset ∨ g.offset + g.width ≤ f.offset := by decide

theorem fields_fit : ∀ f ∈ Layout.fields, f.offset + f.width ≤ 64 := by decide

/-- Between two frames, every field of R22 but those listed is the same. -/
def SameFieldsBut (listed : List FieldPos) (v v' : Frame) : Prop :=
  ∀ f ∈ Layout.fields, f ∉ listed → fieldAt v' f.offset f.width = fieldAt v f.offset f.width

theorem SameFieldsBut.refl (listed : List FieldPos) (v : Frame) : SameFieldsBut listed v v := fun _ _ _ => rfl

theorem SameFieldsBut.of_all (v v' : Frame) : SameFieldsBut Layout.fields v v' := fun _ hf hn => absurd hf hn

/-- A field that is not the same is one of those listed. -/
theorem SameFieldsBut.mem_of_ne {listed : List FieldPos} {v v' : Frame} (h : SameFieldsBut listed v v') {f : FieldPos}
    (hf : f ∈ Layout.fields) (hne : fieldAt v' f.offset f.width ≠ fieldAt v f.offset f.width) : f ∈ listed :=
  by_contra fun hn => hne (h f hf hn)

/-- A write to a listed field changes none of the others (R21). The two memberships are closed facts wherever the
field and the command are named. -/
theorem SameFieldsBut.setbits {listed : List FieldPos} {v v' : Frame} (h : SameFieldsBut listed v v') (g : FieldPos)
    (d : BitVec g.width) (hg : g ∈ Layout.fields := by decide) (hl : g ∈ listed := by simp [fieldsWritten]) :
    SameFieldsBut listed v (setbits v' g.offset g.width d) := by
  intro f hf hn
  have hne : f ≠ g := fun e => hn (e ▸ hl)
  rw [fieldAt_setbits_other v' _ _ d _ _ (fields_fit g hg) (fields_disjoint f hf g hg hne)]
  exact h f hf hn

/-! ## What a command can do -/

/-- A command that reads FRAME and writes fields of FRAME: the new frame and the response are functions of the frame
alone. -/
def FrameCommand (i : Instr) : Prop :=
  ∃ (newFrame : Frame → Frame) (reply : Frame → Response),
    (∀ v, SameFieldsBut (fieldsWritten i) v (newFrame v))
      ∧ ∀ s : State, exec i s = .next ((s.writeFrame (newFrame s.frame)).respond (reply s.frame))

/-- A command that runs the temperature setter, and with it writes the saved pair (R131, R132, R140). -/
def RunsTempSetter (i : Instr) : Prop :=
  (∃ d f, i = .setTemp d f) ∨ (∃ d, i = .setTempCur d) ∨ ∃ m, i = .setMode m

/-- A getter or CHECKSUM leaves FRAME as it was. -/
theorem FrameCommand.of_answer {i : Instr} (value : Frame → BitVec 64)
    (h : ∀ s, exec i s = .next (s.respond (okResponse (value s.frame)))) : FrameCommand i :=
  ⟨id, fun v => okResponse (value v), .refl _, h⟩

/-- A setter answers 0. -/
theorem FrameCommand.of_write {i : Instr} (newFrame : Frame → Frame)
    (h : ∀ s, exec i s = .next ((s.writeFrame (newFrame s.frame)).respond (okResponse 0)))
    (hw : ∀ v, SameFieldsBut (fieldsWritten i) v (newFrame v)) : FrameCommand i :=
  ⟨newFrame, fun _ => okResponse 0, hw, h⟩

/-- Every command but eight is a frame command. -/
theorem frameCommand_or (i : Instr) :
    FrameCommand i ∨ i = .reset ∨ RunsTempSetter i ∨ (∃ v c n, i = .encode v c n) ∨ (∃ b o n, i = .decode b o n)
      ∨ i = .capClr ∨ ∃ d, i = .capPush d := by
  cases i with
  | reset => simp
  | setTemp d f => simp [RunsTempSetter]
  | setTempCur d => simp [RunsTempSetter]
  | setMode m => simp [RunsTempSetter]
  | encode v c n => simp
  | decode b o n => simp
  | capClr => simp
  | capPush d => simp
  | setPower b =>
    exact .inl (.of_write (setPowerBit · b) (exec_setPower b) fun v =>
      (SameFieldsBut.refl _ v).setbits Layout.power _)
  | setTempUnit f =>
    exact .inl (.of_write (setUnitF · f) (exec_setTempUnit f) fun v =>
      (SameFieldsBut.refl _ v).setbits Layout.unitF _)
  | setSwing b =>
    exact .inl (.of_write (setSwingBit · b) (exec_setSwing b) fun v =>
      (SameFieldsBut.refl _ v).setbits Layout.swing _)
  | setSleep b =>
    exact .inl (.of_write (setSleepBit · b) (exec_setSleep b) fun v =>
      (SameFieldsBut.refl _ v).setbits Layout.sleep _)
  | setFan speed =>
    exact .inl (.of_write (fun v => setFanField v (fannorm Config.machine speed.toNat (getModeField v).toNat))
      (exec_setFan speed) fun v =>
        (SameFieldsBut.refl _ v).setbits Layout.fan _)
  | setTimer m =>
    exact .inl (.of_write
      (fun v => setTimerEnBit (setTimerHours v (clampHours Config.machine (wholeHours m.toNat)))
        (timerEnabled (wholeHours m.toNat)))
      (exec_setTimer m) fun v =>
        ((SameFieldsBut.refl _ v).setbits Layout.timerHours _).setbits Layout.timerEn _)
  | getPacked =>
    exact .inl ⟨stampFrame Config.machine, fun v => okResponse (stampFrame Config.machine v), fun v =>
      ((SameFieldsBut.refl _ v).setbits Layout.header _).setbits Layout.sum _, exec_getPacked⟩
  | loadPacked v => exact .inl (.of_write (fun _ => v) (exec_loadPacked v) fun v' => .of_all v' v)
  | checksum v => exact .inl (.of_answer (fun _ => zext64 (checksum v)) (exec_checksum v))
  | getPower => exact .inl (.of_answer (fun v => zext64 (getPowerBit v)) exec_getPower)
  | getTempUnit => exact .inl (.of_answer (fun v => zext64 (getUnitF v)) exec_getTempUnit)
  | getTemp => exact .inl (.of_answer (fun v => zext64 (getTempField v)) exec_getTemp)
  | getFan => exact .inl (.of_answer (fun v => zext64 (getFanField v)) exec_getFan)
  | getMode => exact .inl (.of_answer (fun v => zext64 (getModeField v)) exec_getMode)
  | getSwing => exact .inl (.of_answer (fun v => zext64 (getSwingBit v)) exec_getSwing)
  | getSleep => exact .inl (.of_answer (fun v => zext64 (getSleepBit v)) exec_getSleep)
  | getTimer => exact .inl (.of_answer (fun v => BitVec.ofNat 64 (timerMinutes v)) exec_getTimer)
  | getTimerEn => exact .inl (.of_answer (fun v => zext64 (getTimerEnBit v)) exec_getTimerEn)

/-- The state a command can leave: the pieces of state it writes, FRAME by its fields. -/
inductive Effect (s : State) : Instr → State → Prop
  /-- Some fields of FRAME, or none: every getter, and every FAIL (R237). -/
  | frame (i : Instr) (v : Frame) (hv : SameFieldsBut (fieldsWritten i) s.frame v) (r : Response) :
      Effect s i ((s.writeFrame v).respond r)
  | reset (v : Frame) (r : Response) : Effect s .reset (((s.writeFrame v).writeSaved 20#8 false).respond r)
  | temp (i : Instr) (hi : RunsTempSetter i) (v : Frame)
      (hv : SameFieldsBut (fieldsWritten i) s.frame v) (d : Nat) (f : Bool) (r : Response) :
      Effect s i (((s.writeFrame v).applyTemp Config.machine d f).respond r)
  | encode (v : Frame) (c : BitVec 16) (n : BitVec 8) (xs : List Pulse) (r : Response) :
      Effect s (.encode v c n) ((s.emitAll Config.machine xs).respond r)
  | capClr (r : Response) : Effect s .capClr ((s.writeCapLen 0#16).respond r)
  | capPush (d : Entry) (room : s.capLen.toNat < 1024) (r : Response) :
      Effect s (.capPush d)
        (State.respond { s with cap := Memory.write s.cap s.capLen.toNat d, capLen := s.capLen + 1#16 } r)

/-- A response alone is an effect of any command. -/
theorem Effect.respond (s : State) (i : Instr) (r : Response) : Effect s i (s.respond r) :=
  .frame i s.frame (.refl _ _) r

/-- ENCODE appends the same pulses and gives the same response from every state; with an illegal count, no pulses. -/
theorem exec_encode_emits (v : Frame) (c : BitVec 16) (n : BitVec 8) :
    ∃ xs r, ∀ s : State, exec (.encode v c n) s = .next ((s.emitAll Config.machine xs).respond r) := by
  by_cases hn : n.toNat ≤ 64
  · exact ⟨_, _, fun s => exec_encode_legal v c n s hn⟩
  · refine ⟨[], errResponse, fun s => ?_⟩
    rw [exec_encode_illegal v c n s (by omega)]
    simp [State.emitAll]

/-- CAPPUSH answers a next state only up to a full buffer. -/
theorem exec_capPush_next {d : Entry} {s t : State} (h : exec (.capPush d) s = .next t) :
    (s.capLen.toNat < 1024 ∧ t = State.respond
        { s with cap := Memory.write s.cap s.capLen.toNat d, capLen := s.capLen + 1#16 } (okResponse 0))
      ∨ (s.capLen.toNat = 1024 ∧ t = s.respond errResponse) := by
  rcases Nat.lt_trichotomy s.capLen.toNat 1024 with hl | hl | hl
  · rw [exec_capPush_room d s hl] at h
    exact .inl ⟨hl, by cases h; rfl⟩
  · rw [exec_capPush_full d s hl] at h
    exact .inr ⟨hl, by cases h; rfl⟩
  · rw [exec_capPush_beyond d s hl] at h
    cases h

/-- SETTEMP and SETTEMPCUR run the temperature setter at once; SETMODE has written MODE and FAN before it. -/
theorem exec_runsTempSetter {i : Instr} (hi : RunsTempSetter i) (s : State) :
    ∃ v d f, SameFieldsBut (fieldsWritten i) s.frame v
      ∧ exec i s = .next (((s.writeFrame v).applyTemp Config.machine d f).respond (okResponse 0)) := by
  rcases hi with ⟨d, f, rfl⟩ | ⟨d, rfl⟩ | ⟨m, rfl⟩
  · exact ⟨s.frame, d.toNat, f, .refl _ _, exec_setTemp d f s⟩
  · exact ⟨s.frame, d.toNat, unitOf s.frame, .refl _ _, exec_setTempCur d s⟩
  · exact ⟨_, s.savedTemp.toNat, s.savedUnit,
      ((SameFieldsBut.refl _ _).setbits Layout.mode _).setbits Layout.fan _, exec_setMode m s⟩

/-- What a command that answers a next state has done. -/
theorem exec_effect {i : Instr} {s t : State} (h : exec i s = .next t) : Effect s i t := by
  rcases frameCommand_or i with
    ⟨newFrame, reply, hw, hx⟩ | rfl | hi | ⟨v, c, n, rfl⟩ | ⟨b, o, n, rfl⟩ | rfl | ⟨d, rfl⟩
  · rw [hx] at h
    cases h
    exact .frame i _ (hw s.frame) _
  · cases h
    exact .reset _ _
  · obtain ⟨v, d, f, hv, hx⟩ := exec_runsTempSetter hi s
    rw [hx] at h
    cases h
    exact .temp i hi v hv d f _
  · obtain ⟨xs, r, hx⟩ := exec_encode_emits v c n
    rw [hx] at h
    cases h
    exact .encode v c n xs r
  · rcases exec_decode_next h with ⟨v, -, rfl⟩ | rfl | rfl <;> exact .respond s _ _
  · cases h
    exact .capClr _
  · rcases exec_capPush_next h with ⟨room, rfl⟩ | ⟨-, rfl⟩
    · exact .capPush d room _
    · exact .respond s _ _

/-! ## Who writes what (R20, R22) -/

theorem Effect.inputs_eq {i : Instr} {s t : State} (h : Effect s i t) : t.inputs = s.inputs := by
  cases h <;> rfl

theorem Effect.tx_writer {i : Instr} {s t : State} (h : Effect s i t) (hne : t.tx ≠ s.tx) :
    ∃ v c n, i = .encode v c n := by
  cases h with
  | encode v c n xs r => exact ⟨v, c, n, rfl⟩
  | _ => exact absurd rfl hne

theorem Effect.cap_writer {i : Instr} {s t : State} (h : Effect s i t) (hne : t.cap ≠ s.cap) : ∃ d, i = .capPush d := by
  cases h with
  | capPush d _ r => exact ⟨d, rfl⟩
  | _ => exact absurd rfl hne

theorem Effect.capLen_writer {i : Instr} {s t : State} (h : Effect s i t) (hne : t.capLen ≠ s.capLen) :
    i = .capClr ∨ ∃ d, i = .capPush d := by
  cases h with
  | capClr r => exact .inl rfl
  | capPush d _ r => exact .inr ⟨d, rfl⟩
  | _ => exact absurd rfl hne

theorem Effect.saved_writer {i : Instr} {s t : State} (h : Effect s i t)
    (hne : t.savedTemp ≠ s.savedTemp ∨ t.savedUnit ≠ s.savedUnit) : i = .reset ∨ RunsTempSetter i := by
  cases h with
  | reset v r => exact .inl rfl
  | temp _ hi v _ d f r => exact .inr hi
  | _ => exact absurd hne (by simp)

theorem RunsTempSetter.mem_fieldsWritten {i : Instr} (hi : RunsTempSetter i) :
    Layout.unitF ∈ fieldsWritten i ∧ Layout.temp ∈ fieldsWritten i := by
  rcases hi with ⟨d, f, rfl⟩ | ⟨d, rfl⟩ | ⟨m, rfl⟩ <;> simp [fieldsWritten]

/-- A command changes the fields of FRAME that it is listed for and no others. -/
theorem Effect.sameFieldsBut {i : Instr} {s t : State} (h : Effect s i t) :
    SameFieldsBut (fieldsWritten i) s.frame t.frame := by
  cases h with
  | frame _ v hv r => exact hv
  | reset v r => exact .of_all _ _
  | temp _ hi v hv d f r =>
    obtain ⟨hunit, htemp⟩ := hi.mem_fieldsWritten
    exact (hv.setbits Layout.unitF _ (hl := hunit)).setbits Layout.temp _ (hl := htemp)
  | _ => exact .refl _ _

/-- The "written by" column of R22, read by field, RESET and LOADPACKED set aside. -/
theorem writers_of_field (i : Instr) (hr : i ≠ .reset) (hl : ∀ v, i ≠ .loadPacked v) :
    (Layout.rsvdHi ∉ fieldsWritten i ∧ Layout.rsvdChg ∉ fieldsWritten i ∧ Layout.rsvdFooter ∉ fieldsWritten i)
      ∧ (Layout.header ∈ fieldsWritten i ∨ Layout.sum ∈ fieldsWritten i → i = .getPacked)
      ∧ (Layout.power ∈ fieldsWritten i → ∃ b, i = .setPower b)
      ∧ (Layout.mode ∈ fieldsWritten i → ∃ m, i = .setMode m)
      ∧ (Layout.timerEn ∈ fieldsWritten i ∨ Layout.timerHours ∈ fieldsWritten i → ∃ m, i = .setTimer m)
      ∧ (Layout.unitF ∈ fieldsWritten i → (∃ f, i = .setTempUnit f) ∨ RunsTempSetter i)
      ∧ (Layout.swing ∈ fieldsWritten i → ∃ b, i = .setSwing b)
      ∧ (Layout.sleep ∈ fieldsWritten i → ∃ b, i = .setSleep b)
      ∧ (Layout.fan ∈ fieldsWritten i → (∃ v, i = .setFan v) ∨ ∃ m, i = .setMode m)
      ∧ (Layout.temp ∈ fieldsWritten i → RunsTempSetter i) := by
  cases i with
  | reset => exact absurd rfl hr
  | loadPacked v => exact absurd rfl (hl v)
  | _ =>
    simp [fieldsWritten, RunsTempSetter, Layout.rsvdHi, Layout.rsvdChg, Layout.rsvdFooter, Layout.header, Layout.sum,
      Layout.power, Layout.mode, Layout.timerEn, Layout.timerHours, Layout.unitF, Layout.swing, Layout.sleep,
      Layout.fan, Layout.temp]

/-- Settles O11: a piece that changed is one the command's effect writes; a field that changed is one R22 lists for it. -/
theorem onlyNamedCommandsWriteEachState : Obligations.OnlyNamedCommandsWriteEachState := by
  intro i s t h
  have e := exec_effect h
  refine ⟨e.inputs_eq, e.tx_writer, e.cap_writer, e.capLen_writer, e.saved_writer, fun hr hl => ?_⟩
  obtain ⟨⟨hHi, hChg, hFooter⟩, hStamps, hPower, hMode, hTimer, hUnit, hSwing, hSleep, hFan, hTemp⟩ :=
    writers_of_field i hr hl
  have same := e.sameFieldsBut
  have listed (f : FieldPos) (hf : f ∈ Layout.fields := by decide) := same.mem_of_ne hf
  exact ⟨⟨same Layout.rsvdHi (by decide) hHi, same Layout.rsvdChg (by decide) hChg,
      same Layout.rsvdFooter (by decide) hFooter⟩,
    hStamps ∘ Or.imp (listed Layout.header) (listed Layout.sum), hPower ∘ listed Layout.power,
    hMode ∘ listed Layout.mode, hTimer ∘ Or.imp (listed Layout.timerEn) (listed Layout.timerHours),
    hUnit ∘ listed Layout.unitF, hSwing ∘ listed Layout.swing, hSleep ∘ listed Layout.sleep,
    hFan ∘ listed Layout.fan, hTemp ∘ listed Layout.temp⟩

/-! ## The saved pair is read by SETMODE only (R42, R43) -/

/-- RESET and the two temperature setters leave the same state whatever the saved pair held. -/
theorem exec_writeSaved_of_overwrites {i : Instr}
    (hi : i = .reset ∨ (∃ d f, i = .setTemp d f) ∨ ∃ d, i = .setTempCur d) (s : State) (temp : BitVec 8) (unit : Bool) :
    exec i (s.writeSaved temp unit) = exec i s := by
  rcases hi with rfl | ⟨d, f, rfl⟩ | ⟨d, rfl⟩ <;> rfl

/-- DECODE answers the same in two states with the same valid entries (R207). -/
theorem exec_decode_alike {b : Bool} {o : BitVec 16} {n : BitVec 8} {s s' t : State} (hl : s'.capLen = s.capLen)
    (he : ∀ i, s'.entryAt i = s.entryAt i) (h : exec (.decode b o n) s = .next t) :
    ∃ r, t = s.respond r ∧ exec (.decode b o n) s' = .next (s'.respond r) := by
  rw [exec_decode_eq] at h ⊢
  rw [hl, matchCapture_congr hl he]
  split_ifs at h ⊢
  · exact ⟨errResponse, by cases h; rfl, rfl⟩
  · exact ⟨failResponse, by cases h; rfl, rfl⟩
  · match matchCapture Config.machine s b o.toNat n.toNat, h with
    | .ok v, h => exact ⟨Response.decoded Config.machine v n, by cases h; rfl, rfl⟩
    | .error (.err c), h => exact ⟨errResponse, by cases h; rfl, rfl⟩
    | .error (.fail c), h => exact ⟨failResponse, by cases h; rfl, rfl⟩

/-- A command that does not run the temperature setter and is not RESET neither reads the saved pair nor writes it. -/
theorem exec_writeSaved_of_ignores {i : Instr} (hr : i ≠ .reset) (ht : ¬ RunsTempSetter i) {s t : State}
    (h : exec i s = .next t) (temp : BitVec 8) (unit : Bool) :
    exec i (s.writeSaved temp unit) = .next (t.writeSaved temp unit) := by
  rcases frameCommand_or i with
    ⟨newFrame, reply, -, hx⟩ | hi | hi | ⟨v, c, n, rfl⟩ | ⟨b, o, n, rfl⟩ | rfl | ⟨d, rfl⟩
  · rw [hx] at h ⊢
    cases h
    rfl
  · exact absurd hi hr
  · exact absurd hi ht
  · obtain ⟨xs, r, hx⟩ := exec_encode_emits v c n
    rw [hx] at h ⊢
    cases h
    rfl
  · obtain ⟨r, rfl, hx⟩ := exec_decode_alike (s := s) (s' := s.writeSaved temp unit) rfl (fun _ => rfl) h
    exact hx
  · cases h
    rfl
  · rcases exec_capPush_next h with ⟨room, rfl⟩ | ⟨full, rfl⟩
    · exact exec_capPush_room d _ room
    · exact exec_capPush_full d _ full

/-- Settles O12: a command that writes the pair overwrites whatever it held; every other one carries it along. -/
theorem savedPairReachesOnlySetMode : Obligations.SavedPairReachesOnlySetMode := by
  intro i s t temp unit hm h
  by_cases hi : i = .reset ∨ (∃ d f, i = .setTemp d f) ∨ ∃ d, i = .setTempCur d
  · refine ⟨t, (exec_writeSaved_of_overwrites hi s temp unit).trans h, rfl, rfl, rfl, rfl, rfl, rfl,
      fun _ => ⟨rfl, rfl⟩, fun hr hd hc => ?_⟩
    rcases hi with hi | ⟨d, f, hi⟩ | ⟨d, hi⟩
    · exact absurd hi hr
    · exact absurd hi (hd d f)
    · exact absurd hi (hc d)
  · have hw : ¬ (i = .reset ∨ RunsTempSetter i) := by
      rintro (hr | ht | ht | ⟨m, hm'⟩)
      · exact hi (.inl hr)
      · exact hi (.inr (.inl ht))
      · exact hi (.inr (.inr ht))
      · exact hm m hm'
    obtain ⟨hr, ht⟩ := not_or.mp hw
    have kept := mt (exec_effect h).saved_writer hw
    obtain ⟨htemp, hunit⟩ := not_or.mp kept
    exact ⟨t.writeSaved temp unit, exec_writeSaved_of_ignores hr ht h temp unit, rfl, rfl, rfl, rfl, rfl, rfl,
      fun hi' => absurd hi' hi, fun _ _ _ => ⟨rfl, rfl, not_not.mp htemp, not_not.mp hunit⟩⟩

/-! ## What each operation does to the invariant -/

/-- The invariant looks at the capture buffer and the saved pair only. -/
theorem MachineInv.congr {s t : State} (hs : MachineInv s) (hcap : t.cap = s.cap) (hlen : t.capLen = s.capLen)
    (htemp : t.savedTemp = s.savedTemp) (hunit : t.savedUnit = s.savedUnit) : MachineInv t where
  capLen_le := hlen ▸ hs.capLen_le
  cap_wf := hcap ▸ hs.cap_wf
  cap_depth := hcap ▸ hs.cap_depth
  cap_filled := by rw [hcap, hlen]; exact hs.cap_filled
  saved := by unfold SavedConsistent; rw [htemp, hunit]; exact hs.saved

theorem MachineInv.writeFrame {s : State} (hs : MachineInv s) (v : Frame) : MachineInv (s.writeFrame v) :=
  hs.congr rfl rfl rfl rfl

theorem MachineInv.respond {s : State} (hs : MachineInv s) (r : Response) : MachineInv (s.respond r) :=
  hs.congr rfl rfl rfl rfl

theorem MachineInv.emitAll {s : State} (hs : MachineInv s) (p : Params) (xs : List Pulse) :
    MachineInv (s.emitAll p xs) := hs.congr rfl rfl rfl rfl

theorem MachineInv.writeSaved {s : State} (hs : MachineInv s) {t : BitVec 8} {f : Bool}
    (ht : SavedConsistent (s.writeSaved t f)) : MachineInv (s.writeSaved t f) where
  capLen_le := hs.capLen_le
  cap_wf := hs.cap_wf
  cap_depth := hs.cap_depth
  cap_filled := hs.cap_filled
  saved := ht

/-- A clamped value is in the range of its unit, and fits in SAVED_TEMP (R134, R150). -/
theorem savedConsistent_applyTemp (s : State) (d : Nat) (f : Bool) :
    SavedConsistent (s.applyTemp Config.machine d f) := by
  cases f <;> simp [SavedConsistent, tempclamp, clamp] <;> omega

theorem MachineInv.applyTemp {s : State} (hs : MachineInv s) (d : Nat) (f : Bool) :
    MachineInv (s.applyTemp Config.machine d f) :=
  ((hs.writeFrame _).writeSaved (savedConsistent_applyTemp s d f)).writeFrame _

/-- Emptying the buffer leaves no index to have a value (R200). -/
theorem MachineInv.clear {s : State} (hs : MachineInv s) : MachineInv (s.writeCapLen 0#16) where
  capLen_le := Nat.zero_le _
  cap_wf := hs.cap_wf
  cap_depth := hs.cap_depth
  cap_filled := fun i hi => absurd hi (Nat.not_lt_zero i)
  saved := hs.saved

/-- One entry appended at CAP_LEN: the index written is the only new one below the new CAP_LEN (R201). -/
theorem MachineInv.push {s : State} (hs : MachineInv s) (d : Entry) (room : s.capLen.toNat < 1024) :
    MachineInv { s with cap := Memory.write s.cap s.capLen.toNat d, capLen := s.capLen + 1#16 } := by
  have hlen : (s.capLen + 1#16).toNat = s.capLen.toNat + 1 := by bv_omega
  have hread (i : Nat) := Memory.read_write s.capLen.toNat i d hs.cap_wf
  refine ⟨?_, Memory.wf_write _ d hs.cap_wf, fun i v hi => ?_, fun i hi => ?_, hs.saved⟩
  · show (s.capLen + 1#16).toNat ≤ 1024
    omega
  · rw [hread] at hi
    split at hi
    · omega
    · exact hs.cap_depth i v hi
  · change i < (s.capLen + 1#16).toNat at hi
    rw [hread]
    split
    · exact ⟨d, rfl⟩
    · exact hs.cap_filled i (by omega)

/-! ## Reset, commands, steps -/

theorem savedConsistent_default (s : State) : SavedConsistent (s.writeSaved 20#8 false) := by
  simp [SavedConsistent]

/-- Settles O5: no index is listed or below CAP_LEN, and 20 degrees Celsius is in range. -/
theorem resetMeetsInvariant : Obligations.ResetMeetsInvariant where
  capLen_le := Nat.zero_le _
  cap_wf := rfl
  cap_depth := fun _ _ h => nomatch h
  cap_filled := fun i hi => absurd hi (Nat.not_lt_zero i)
  saved := savedConsistent_default State.reset

theorem machineInv_hardwareReset (s : State) : MachineInv s.hardwareReset :=
  MachineInv.congr resetMeetsInvariant rfl rfl rfl rfl

/-- Every effect a command can have keeps the invariant. -/
theorem MachineInv.effect {i : Instr} {s t : State} (hs : MachineInv s) (h : Effect s i t) : MachineInv t := by
  cases h with
  | frame _ v _ r => exact (hs.writeFrame v).respond r
  | reset v r => exact ((hs.writeFrame v).writeSaved (savedConsistent_default _)).respond r
  | temp _ _ v _ d f r => exact ((hs.writeFrame v).applyTemp d f).respond r
  | encode _ _ _ xs r => exact (hs.emitAll _ xs).respond r
  | capClr r => exact hs.clear.respond r
  | capPush d room r => exact (hs.push d room).respond r

/-- Taking what is presented does not touch what the invariant looks at. -/
theorem MachineInv.takeInput {s : State} (hs : MachineInv s) (rest : List Input) :
    MachineInv { s with inputs := rest } := hs.congr rfl rfl rfl rfl

/-- Settles O6, by the cases of a step: idle, the hardware reset, a command, a word that is no command. -/
theorem stepKeepsInvariant : Obligations.StepKeepsInvariant := by
  intro s t hs h
  rcases step_next h with ⟨-, rfl⟩ | ⟨rest, -, rfl⟩ | ⟨w, rest, -, ⟨i, -, hx⟩ | ⟨e, -, rfl⟩⟩
  · exact hs
  · exact machineInv_hardwareReset _
  · exact (hs.takeInput rest).effect (exec_effect hx)
  · exact (hs.takeInput rest).respond _

/-! ## The state after hardware reset (R51, R260, R261) -/

theorem consistent_reset : Consistent State.reset.frame := by constructor <;> decide

/-- Settles O3, field by field; no index of the empty CAP has a value. -/
theorem resetLeavesDefaultConfiguration : Obligations.ResetLeavesDefaultConfiguration :=
  ⟨rfl, rfl, rfl, rfl, rfl, fun _ => rfl, rfl, rfl, consistent_reset, savedConsistent_default State.reset⟩

end Sys2Proof.Machine
end

section
/-! ## The capture memory (R62, R63): equal contents are equal data -/

namespace Sys2Proof.Machine

theorem Memory.read_head (j : Nat) (u : Entry) (m : Memory) : Memory.read ((j, u) :: m) j = some u := by
  simp [Memory.read]

theorem Memory.read_tail_of_ne {i j : Nat} (u : Entry) (m : Memory) (h : i ≠ j) :
    Memory.read ((j, u) :: m) i = Memory.read m i := by
  simp [Memory.read, h]

theorem Memory.risesFrom_tail {b j : Nat} {u : Entry} {m : Memory} (h : Memory.risesFrom b ((j, u) :: m) = true) :
    Memory.risesFrom (j + 1) m = true := by
  simp only [Memory.risesFrom, Bool.and_eq_true] at h
  exact h.2

/-- The head's index is the least one that has a value. -/
theorem Memory.head_le_of_read {b i j : Nat} {u v : Entry} {m : Memory}
    (h : Memory.risesFrom b ((j, u) :: m) = true) (hv : Memory.read ((j, u) :: m) i = some v) : j ≤ i := by
  by_contra hlt
  rw [Memory.read_tail_of_ne u m (by omega), Memory.read_eq_none_of_lt (Memory.risesFrom_tail h) (by omega)] at hv
  cases hv

/-- What is listed after the head reads as before, and at the head's own index as nothing. -/
theorem Memory.read_tail {b j : Nat} {u : Entry} {m : Memory} (h : Memory.risesFrom b ((j, u) :: m) = true) (i : Nat) :
    Memory.read m i = if i = j then none else Memory.read ((j, u) :: m) i := by
  split
  · next heq => exact Memory.read_eq_none_of_lt (Memory.risesFrom_tail h) (by omega)
  · next hne => exact (Memory.read_tail_of_ne u m hne).symm

/-- Two memories that rise read the same only when they list the same: the heads' indices bound each other, so they
are one index with one value, and the tails again read the same. -/
theorem Memory.eq_of_read_eq {m m' : Memory} {b b' : Nat} (h : Memory.risesFrom b m = true)
    (h' : Memory.risesFrom b' m' = true) (hread : ∀ i, Memory.read m i = Memory.read m' i) : m = m' := by
  induction m generalizing b b' m' with
  | nil =>
    cases m' with
    | nil => rfl
    | cons y m' => exact absurd ((hread y.1).trans (Memory.read_head y.1 y.2 m')) nofun
  | cons x m ih =>
    obtain ⟨j, u⟩ := x
    have hj := (hread j).symm.trans (Memory.read_head j u m)
    cases m' with
    | nil => cases hj
    | cons y m' =>
      obtain ⟨k, w⟩ := y
      have hk := (hread k).trans (Memory.read_head k w m')
      obtain rfl : j = k := Nat.le_antisymm (Memory.head_le_of_read h hk) (Memory.head_le_of_read h' hj)
      obtain rfl : u = w := Option.some.inj (hj.symm.trans (Memory.read_head j w m'))
      have htail : ∀ i, Memory.read m i = Memory.read m' i := fun i => by
        rw [Memory.read_tail h, Memory.read_tail h', hread]
      rw [ih (Memory.risesFrom_tail h) (Memory.risesFrom_tail h') htail]

/-- Settles O49: the laws of a write, and extensionality by induction on the two lists. -/
theorem captureMemoryReadsBackWrites : Obligations.CaptureMemoryReadsBackWrites :=
  ⟨fun _ i j v h => ⟨Memory.wf_write i v h, Memory.read_write i j v h⟩, fun _ _ => Memory.eq_of_read_eq⟩

end Sys2Proof.Machine
end

section
/-! PROOF. The command word (R81 to R84, R87): what decoding selects and reads, that it inverts the encoder, and which
bits it never looks at. -/

namespace Sys2Proof

open Machine (usedBits DecodesAs LegalOpcode)

/-! ## The operands, as bits of the word (R82, R87) -/

theorem cBool_eq (w : CommandWord) : cBool w = w.getLsbD 0 := by simp [cBool, cField]

theorem aBool_eq (w : CommandWord) : aBool w = w.getLsbD 32 := by simp [aBool, aField]

theorem aField_eq_ofNat (w : CommandWord) : aField w = BitVec.ofNat 64 (w.toNat / 2 ^ 32) :=
  BitVec.eq_of_toNat_eq ((toNat_aField w).trans (BitVec.toNat_ofNat _ _).symm)

theorem bField_eq_ofNat (w : CommandWord) : bField w = BitVec.ofNat 16 (w.toNat / 2 ^ 16) :=
  BitVec.eq_of_toNat_eq ((toNat_bField w).trans (BitVec.toNat_ofNat _ _).symm)

theorem aEntry_eq_ofNat (w : CommandWord) : aEntry w = BitVec.ofNat 32 (w.toNat / 2 ^ 32) := by
  apply BitVec.eq_of_toNat_eq
  simp [aEntry, toNat_aField]

theorem bByte_eq_ofNat (w : CommandWord) : bByte w = BitVec.ofNat 8 (w.toNat / 2 ^ 16) := by
  apply BitVec.eq_of_toNat_eq
  simp [bByte, toNat_bField]

theorem cByte_eq_ofNat (w : CommandWord) : cByte w = BitVec.ofNat 8 w.toNat := by
  apply BitVec.eq_of_toNat_eq
  simp [cByte, toNat_cField]

/-! ## What the decoder selects and reads -/

/-- The command with its operands replaced by those its format reads from a word (R82). -/
def Instr.withOperandsOf (w : CommandWord) : Instr → Instr
  | .setPower _ => .setPower (cBool w)
  | .setTempUnit _ => .setTempUnit (cBool w)
  | .setTemp _ _ => .setTemp (bByte w) (cBool w)
  | .setTempCur _ => .setTempCur (bByte w)
  | .setFan _ => .setFan (bByte w)
  | .setMode _ => .setMode (bByte w)
  | .setSwing _ => .setSwing (cBool w)
  | .setSleep _ => .setSleep (cBool w)
  | .setTimer _ => .setTimer (bField w)
  | .loadPacked _ => .loadPacked (aField w)
  | .checksum _ => .checksum (aField w)
  | .encode _ _ _ => .encode (aField w) (bField w) (cByte w)
  | .decode _ _ _ => .decode (aBool w) (bField w) (cByte w)
  | .capPush _ => .capPush (aEntry w)
  | i => i

/-- A word with a command's opcode decodes to that command, with the operands of the word (R81). -/
theorem decode_of_opField {w : CommandWord} {i : Instr} (h : opField w = opcode i) :
    decode w = .ok (i.withOperandsOf w) := by
  cases i <;> (unfold decode; rw [h]; rfl)

/-- Only a word with a command's opcode and operands decodes to it. -/
theorem of_decode_eq_ok {w : CommandWord} {i : Instr} (h : decode w = .ok i) :
    opField w = opcode i ∧ i.withOperandsOf w = i := by
  unfold decode at h
  split at h <;> cases h
  all_goals exact ⟨‹_›, rfl⟩

theorem opField_encode (i : Instr) : opField (encode i) = opcode i := by
  cases i <;> exact opField_assembleWord _ _ _ _

/-! ## An operand narrower than its field -/

theorem extractLsb'_setWidth_of_le {m n : Nat} (h : m ≤ n) (v : BitVec m) : (v.setWidth n).extractLsb' 0 m = v := by
  ext k hk
  simp [hk, Nat.lt_of_lt_of_le hk h]

/-- The low bits of a field, put back, are the field under a mask. -/
theorem setWidth_extractLsb'_eq_and {n : Nat} (v : BitVec n) (m : Nat) :
    (v.extractLsb' 0 m).setWidth n = v &&& BitVec.ofNat n (2 ^ m - 1) := by
  apply BitVec.eq_of_getLsbD_eq
  intro k hk
  simp only [BitVec.getLsbD_setWidth, BitVec.getLsbD_extractLsb', BitVec.getLsbD_and, BitVec.getLsbD_ofNat,
    Nat.testBit_two_pow_sub_one]
  simp [hk, Bool.and_comm]

theorem ofBool_getLsbD_zero {n : Nat} (v : BitVec n) : BitVec.ofBool (v.getLsbD 0) = v.extractLsb' 0 1 := by
  ext k hk
  obtain rfl : k = 0 := by omega
  simp

theorem getElem_boolField_zero (b : Bool) : (boolField b)[0] = b := by simp [boolField]

theorem boolField_cBool (w : CommandWord) : boolField (cBool w) = cField w &&& 1#16 :=
  (congrArg _ (ofBool_getLsbD_zero _)).trans (setWidth_extractLsb'_eq_and _ 1)

theorem setWidth_ofBool_aBool (w : CommandWord) : (BitVec.ofBool (aBool w)).setWidth 64 = aField w &&& 1#64 :=
  (congrArg _ (ofBool_getLsbD_zero _)).trans (setWidth_extractLsb'_eq_and _ 1)

theorem setWidth_bByte (w : CommandWord) : (bByte w).setWidth 16 = bField w &&& 0xFF#16 :=
  setWidth_extractLsb'_eq_and _ 8

theorem setWidth_cByte (w : CommandWord) : (cByte w).setWidth 16 = cField w &&& 0xFF#16 :=
  setWidth_extractLsb'_eq_and _ 8

theorem setWidth_aEntry (w : CommandWord) : (aEntry w).setWidth 64 = aField w &&& 0xFFFFFFFF#64 :=
  setWidth_extractLsb'_eq_and _ 32

theorem and_ff (v : BitVec 8) : v &&& 0xFF#8 = v := BitVec.and_allOnes

theorem and_ffff (v : BitVec 16) : v &&& 0xFFFF#16 = v := BitVec.and_allOnes

theorem and_ffffffffffffffff (v : BitVec 64) : v &&& 0xFFFFFFFFFFFFFFFF#64 = v := BitVec.and_allOnes

/-! ## Decoding inverts encoding -/

/-- The operands of the encoding are the operands encoded (R82, R90). -/
theorem withOperandsOf_encode (i : Instr) : i.withOperandsOf (encode i) = i := by
  cases i <;>
    simp [Instr.withOperandsOf, encode, cBool, aBool, bByte, cByte, aEntry, aField_assembleWord, bField_assembleWord,
      cField_assembleWord, getElem_boolField_zero, extractLsb'_setWidth_of_le]

theorem decode_encode (i : Instr) : decode (encode i) = .ok i := by
  rw [decode_of_opField (opField_encode i), withOperandsOf_encode]

/-- Settles O15: the OP field selects the command again, and each operand is read from where it was written. -/
theorem decodeOfEncodeIsTheCommand : Obligations.DecodeOfEncodeIsTheCommand := decode_encode

/-! ## The bits of a word that its command does not use (R83) -/

theorem opField_and_usedBits (w : CommandWord) (i : Instr) : opField (w &&& usedBits i) = opField w := by
  conv_lhs => rw [← assembleWord_fields w]
  cases i <;> simp [usedBits, assembleWord_and, opField_assembleWord, and_ff]

/-- Encoding the operands read from a word writes the word's used bits and zeros (R90). -/
theorem encode_withOperandsOf {w : CommandWord} {i : Instr} (h : opField w = opcode i) :
    encode (i.withOperandsOf w) = w &&& usedBits i := by
  conv_rhs => rw [← assembleWord_fields w]
  cases i <;>
    simp [Instr.withOperandsOf, encode, opcode, usedBits, assembleWord_and, h, and_ff, and_ffff, and_ffffffffffffffff,
      boolField_cBool, setWidth_ofBool_aBool, setWidth_bByte, setWidth_cByte, setWidth_aEntry]

theorem encode_injective : Function.Injective encode := fun i j h =>
  Except.ok.inj ((decode_encode i).symm.trans (h ▸ decode_encode j))

/-- Settles O16: the encoding of what a word decodes to is its used bits, and words with the same used bits have one
encoding. -/
theorem unusedBitsAreIgnored : Obligations.UnusedBitsAreIgnored := by
  have encode_eq {w : CommandWord} {i : Instr} (h : decode w = .ok i) : encode i = w &&& usedBits i := by
    obtain ⟨hop, hi⟩ := of_decode_eq_ok h
    rw [← encode_withOperandsOf hop, hi]
  refine ⟨fun w i => encode_eq, fun w w' i h hw => ?_⟩
  have hop : opField w' = opcode i := by
    rw [← opField_and_usedBits w' i, ← hw, opField_and_usedBits, (of_decode_eq_ok h).1]
  have same : i.withOperandsOf w' = i := encode_injective <|
    calc encode (i.withOperandsOf w') = w' &&& usedBits i := encode_withOperandsOf hop
      _ = w &&& usedBits i := hw.symm
      _ = encode i := (encode_eq h).symm
  rw [decode_of_opField hop, same]

/-! ## OP alone selects the command (R81, R84, R85) -/

/-- Every word with a command's OP value decodes to that command with the operands of the word. -/
theorem decodesAs_withOperandsOf (i : Instr) : DecodesAs (opcode i).toNat (i.withOperandsOf ·) := fun w hw =>
  decode_of_opField (BitVec.eq_of_toNat_eq ((toNat_opField w).trans hw))

/-- Settles O13: the 26 opcodes one by one, the operands of each word written as numbers of the word. -/
theorem opcodeSelectsCommandAndOperands : Obligations.OpcodeSelectsCommandAndOperands := by
  unfold Obligations.OpcodeSelectsCommandAndOperands
  simp only [← cBool_eq, ← aBool_eq, ← aField_eq_ofNat, ← bField_eq_ofNat, ← aEntry_eq_ofNat, ← bByte_eq_ofNat,
    ← cByte_eq_ofNat]
  exact ⟨decodesAs_withOperandsOf .reset, decodesAs_withOperandsOf (.setPower false), decodesAs_withOperandsOf .getPower,
    decodesAs_withOperandsOf (.setTempUnit false), decodesAs_withOperandsOf .getTempUnit,
    decodesAs_withOperandsOf (.setTemp 0 false), decodesAs_withOperandsOf (.setTempCur 0),
    decodesAs_withOperandsOf .getTemp, decodesAs_withOperandsOf (.setFan 0), decodesAs_withOperandsOf .getFan,
    decodesAs_withOperandsOf (.setMode 0), decodesAs_withOperandsOf .getMode, decodesAs_withOperandsOf (.setSwing false),
    decodesAs_withOperandsOf .getSwing, decodesAs_withOperandsOf (.setSleep false), decodesAs_withOperandsOf .getSleep,
    decodesAs_withOperandsOf (.setTimer 0), decodesAs_withOperandsOf .getTimer, decodesAs_withOperandsOf .getTimerEn,
    decodesAs_withOperandsOf .getPacked, decodesAs_withOperandsOf (.loadPacked 0), decodesAs_withOperandsOf (.checksum 0),
    decodesAs_withOperandsOf (.encode 0 0 0), decodesAs_withOperandsOf (.decode false 0 0),
    decodesAs_withOperandsOf .capClr, decodesAs_withOperandsOf (.capPush 0)⟩

/-- Settles O14: each word, evaluated. -/
theorem writtenWordsDecode : Obligations.WrittenWordsDecode := ⟨rfl, rfl, rfl, rfl, rfl, rfl, rfl⟩

theorem legalOpcode_opcode (i : Instr) : LegalOpcode (opcode i).toNat := by
  cases i <;> simp [LegalOpcode, opcode]

/-- A word whose OP value is none of R84 is rejected by name. -/
theorem decode_of_not_legalOpcode {w : CommandWord} (h : ¬ LegalOpcode (w.toNat / 2 ^ 96)) :
    ∃ op, decode w = .error (.illegalOpcode op) := by
  match hd : decode w with
  | .error (.illegalOpcode op) => exact ⟨op, rfl⟩
  | .ok i =>
    rw [← toNat_opField, (of_decode_eq_ok hd).1] at h
    exact absurd (legalOpcode_opcode i) h

end Sys2Proof
end

section
/-! PROOF. What taking a word answers (R80, R85, R92, R93): the step on a presented word, and the responses each command
can give. -/

namespace Sys2Proof.Machine

/-! ## The step on a presented word -/

theorem step_of_decode_ok {s : State} {w : CommandWord} {rest : List Input} {i : Instr}
    (h : s.inputs = .command w :: rest) (hd : decode w = .ok i) : step s = exec i { s with inputs := rest } := by
  rw [step, fetch_command h]
  simp only [hd]

theorem step_of_decode_error {s : State} {w : CommandWord} {rest : List Input} {e : DecodeError}
    (h : s.inputs = .command w :: rest) (hd : decode w = .error e) :
    step s = rejectWord e { s with inputs := rest } := by
  rw [step, fetch_command h]
  simp only [hd]

/-- Settles O1. -/
theorem stepRunsDecodedCommand : Obligations.StepRunsDecodedCommand := fun _ _ _ _ => step_of_decode_ok

/-- Settles O2: the decoder rejects the word, and rejecting is taking an ERR. -/
theorem illegalOpcodeAnswersErr : Obligations.IllegalOpcodeAnswersErr := by
  intro s w rest h hop
  obtain ⟨op, hd⟩ := decode_of_not_legalOpcode hop
  rw [step_of_decode_error h hd]
  exact State.takeStop_err _ .illegalOpcode

/-! ## The responses a command can give -/

/-- The table of R93, with the values R92 and R212 allow: OK from every command, FAIL and ERR from those named. -/
inductive CanAnswer : Instr → Response → Prop
  | ok (i : Instr) (v : BitVec 64) : CanAnswer i (okResponse v)
  | decoded (b : Bool) (o : BitVec 16) (n : BitVec 8) (v : Frame) :
      CanAnswer (.decode b o n) (Response.decoded Config.machine v n)
  | decodeFail (b : Bool) (o : BitVec 16) (n : BitVec 8) : CanAnswer (.decode b o n) failResponse
  | decodeErr (b : Bool) (o : BitVec 16) (n : BitVec 8) : CanAnswer (.decode b o n) errResponse
  | encodeErr (v : Frame) (c : BitVec 16) (n : BitVec 8) : CanAnswer (.encode v c n) errResponse
  | capPushErr (d : Entry) : CanAnswer (.capPush d) errResponse

/-- A command that answers a next state gives one response, of its row of R93. -/
theorem exec_canAnswer {i : Instr} {s t : State} (h : exec i s = .next t) :
    ∃ r, t.responses = s.responses ++ [r] ∧ CanAnswer i r := by
  cases i with
  | decode b o n =>
    rcases exec_decode_next h with ⟨v, -, rfl⟩ | rfl | rfl
    · exact ⟨_, rfl, .decoded b o n v⟩
    · exact ⟨_, rfl, .decodeFail b o n⟩
    · exact ⟨_, rfl, .decodeErr b o n⟩
  | encode v c n =>
    by_cases hn : n.toNat ≤ 64
    · rw [exec_encode_legal v c n s hn] at h
      cases h
      exact ⟨_, rfl, .ok _ _⟩
    · rw [exec_encode_illegal v c n s (by omega)] at h
      cases h
      exact ⟨_, rfl, .encodeErr v c n⟩
  | capPush d =>
    rcases exec_capPush_next h with ⟨-, rfl⟩ | ⟨-, rfl⟩
    · exact ⟨_, rfl, .ok _ _⟩
    · exact ⟨_, rfl, .capPushErr d⟩
  | _ =>
    cases h
    exact ⟨_, rfl, .ok _ _⟩

/-- ADDR and CMD are 0, and every field is 0 when the status is not OK (R92). -/
def Response.ZeroWhereUnused (r : Response) : Prop :=
  r.addr = 0 ∧ r.cmd = 0 ∧ (r.status ≠ .ok → r.val = 0 ∧ r.bits = 0 ∧ r.proto = 0)

theorem zeroWhereUnused_errResponse : errResponse.ZeroWhereUnused := ⟨rfl, rfl, fun _ => ⟨rfl, rfl, rfl⟩⟩

theorem CanAnswer.zeroWhereUnused {i : Instr} {r : Response} (h : CanAnswer i r) : r.ZeroWhereUnused := by
  cases h with
  | ok v => exact ⟨rfl, rfl, absurd rfl⟩
  | decoded b o n v => exact ⟨rfl, rfl, absurd rfl⟩
  | decodeFail b o n => exact ⟨rfl, rfl, fun _ => ⟨rfl, rfl, rfl⟩⟩
  | _ => exact zeroWhereUnused_errResponse

/-- Settles O8: the word decodes and its command answers once, or it is rejected with the ERR response. -/
theorem oneResponsePerCommand : Obligations.OneResponsePerCommand := by
  intro s t w rest h ht
  match hd : decode w with
  | .ok i =>
    rw [step_of_decode_ok h hd] at ht
    obtain ⟨r, hr, hc⟩ := exec_canAnswer ht
    exact ⟨(exec_effect ht).inputs_eq, r, hr, hc.zeroWhereUnused⟩
  | .error (.illegalOpcode op) =>
    rw [step_of_decode_error h hd] at ht
    cases ht
    exact ⟨rfl, errResponse, rfl, zeroWhereUnused_errResponse⟩

/-- Settles O9: the one response is of the command's row of R93. -/
theorem statusesOfEachCommand : Obligations.StatusesOfEachCommand := by
  intro i s t r h hr
  obtain ⟨r', hr', hc⟩ := exec_canAnswer h
  obtain rfl : r = r' := List.singleton_inj.mp (List.append_cancel_left (hr.symm.trans hr'))
  cases hc with
  | ok v => exact ⟨nofun, nofun⟩
  | decoded b o n v => exact ⟨nofun, nofun⟩
  | decodeFail b o n => exact ⟨fun _ => ⟨b, o, n, rfl⟩, nofun⟩
  | decodeErr b o n => exact ⟨nofun, fun _ => .inr (.inl ⟨b, o, n, rfl⟩)⟩
  | encodeErr v c n => exact ⟨nofun, fun _ => .inl ⟨v, c, n, rfl⟩⟩
  | capPushErr d => exact ⟨nofun, fun _ => .inr (.inr ⟨d, rfl⟩)⟩

/-! ## The response as a record of 154 bits (R92) -/

theorem Response.toNat_record (r : Response) :
    r.record.toNat = r.status.code.toNat * 2 ^ 152 + r.val.toNat * 2 ^ 88 + r.bits.toNat * 2 ^ 80
      + r.proto.toNat * 2 ^ 64 + r.addr.toNat * 2 ^ 32 + r.cmd.toNat := by
  have hval := r.val.isLt
  have hbits := r.bits.isLt
  have hproto := r.proto.isLt
  have haddr := r.addr.isLt
  have hcmd := r.cmd.isLt
  simp only [Response.record, BitVec.toNat_append]
  rw [← Nat.shiftLeft_add_eq_or_of_lt hcmd, ← Nat.shiftLeft_add_eq_or_of_lt haddr,
    ← Nat.shiftLeft_add_eq_or_of_lt hproto, ← Nat.shiftLeft_add_eq_or_of_lt hbits, ← Nat.shiftLeft_add_eq_or_of_lt hval]
  simp only [Nat.shiftLeft_eq]
  omega

/-- Settles O17: the record is the sum of its fields at their places. -/
theorem responseRecordLayout : Obligations.ResponseRecordLayout := by
  intro r
  have hval := r.val.isLt
  have hbits := r.bits.isLt
  have hproto := r.proto.isLt
  have haddr := r.addr.isLt
  have hcmd := r.cmd.isLt
  rw [r.toNat_record]
  refine ⟨?_, by omega, by omega, by omega, by omega, by omega⟩
  trans r.status.code.toNat
  · omega
  · cases r.status <;> rfl

end Sys2Proof.Machine
end

section
/-! PROOF. The host sequence SEND (R91): the checksum as a number (R166), the read-out GETPACKED stores (R163), one pass
of the pulse encoder by index (R182), and the two commands run one after the other. -/

namespace Sys2Proof.Machine

/-! ## The checksum (R166) -/

theorem toNat_checksum (v : Frame) : (checksum v).toNat = checksumNat v := by
  have byte (o : Nat) : (getbits v o 8).toNat = fieldAt v o 8 := toNat_getbits v o 8
  simp only [checksum, byteSum, checksumOffsets, List.foldl_cons, List.foldl_nil, checksumNat, dataSum, ← byte]
  bv_omega

/-- The checksum depends on bits 47:16 only. -/
theorem checksumNat_congr {v v' : Frame} (h : ∀ k, 16 ≤ k → k < 48 → v'.getLsbD k = v.getLsbD k) :
    checksumNat v' = checksumNat v := by
  have byte (o : Nat) (ho : 16 ≤ o ∧ o + 8 ≤ 48 := by decide) : fieldAt v' o 8 = fieldAt v o 8 :=
    fieldAt_congr fun k hl hu => h k (by omega) (by omega)
  simp only [checksumNat, dataSum, byte 16, byte 24, byte 32, byte 40]

/-! ## The read-out (R163, R168) -/

/-- The stamps change bits 55:48 and 7:0 only. -/
theorem getLsbD_stampFrame (p : Params) (v : Frame) {k : Nat} (hk : (8 ≤ k ∧ k < 48) ∨ 56 ≤ k) :
    (stampFrame p v).getLsbD k = v.getLsbD k := by
  rw [stampFrame, getLsbD_setSum, if_neg (by omega), getLsbD_setHeader, if_neg (by omega)]

theorem frameValid_stampFrame (v : Frame) : FrameValid (stampFrame Config.machine v) := by
  constructor
  · exact (fieldAt_setbits_other _ 0 8 _ 48 8 (by decide) (by decide)).trans
      (fieldAt_setbits_same v 48 8 0x18#8 (by decide))
  · have hsum := fieldAt_setbits_same (setHeader v 0x18#8) 0 8 (checksum (setHeader v 0x18#8)) (by decide)
    refine hsum.trans ((toNat_checksum _).trans (checksumNat_congr fun k hl hu => ?_).symm)
    rw [stampFrame, getLsbD_setSum, if_neg (by omega)]
    rfl

/-! ## One pass by index (R182) -/

theorem framePasses_one (p : Params) (v : Frame) (n : Nat) : framePasses p v n 1 = frameSegments p v n :=
  List.append_nil _

theorem getElem?_frameSegments_data (p : Params) (v : Frame) {n i : Nat} (hi : i < 2 * n) :
    (frameSegments p v n)[i + 2]? = (dataPulses p v n)[i]? := by
  have hlen := length_dataPulses p v n
  rw [frameSegments, List.getElem?_append_left (by simp; omega)]
  rfl

theorem getElem?_frameSegments_end (p : Params) (v : Frame) (n i : Nat) :
    (frameSegments p v n)[2 * n + 2 + i]? = [((.mark, p.bitMarkUs) : Pulse), (.space, p.gapUs)][i]? := by
  have hlen : ([((.mark, p.hdrMarkUs) : Pulse), (.space, p.hdrSpaceUs)] ++ dataPulses p v n).length = 2 * n + 2 := by
    simp [length_dataPulses]
  rw [frameSegments, List.getElem?_append_right (by omega), hlen, Nat.add_sub_cancel_left]

theorem segmentAt_bitMark (v : Frame) {n k : Nat} (hk : k < n) :
    segmentAt v n (2 * k + 2) = segmentOf Config.machine (.mark, Config.machine.bitMarkUs) := by
  rw [segmentAt, if_neg (by omega), if_neg (by omega), if_neg (by omega), if_neg (by omega), if_pos (by omega)]
  rfl

theorem segmentAt_bitSpace (v : Frame) {n k : Nat} (hk : k < n) :
    segmentAt v n (2 * k + 3) = segmentOf Config.machine
      (.space, if v.getLsbD k then Config.machine.oneSpaceUs else Config.machine.zeroSpaceUs) := by
  rw [segmentAt, if_neg (by omega), if_neg (by omega), if_neg (by omega), if_neg (by omega), if_neg (by omega),
    show (2 * k + 3 - 3) / 2 = k by omega]
  cases v.getLsbD k <;> rfl

/-- A pass by R182's index formulas: the header's two segments, a mark and a space for each bit, the footer's two. -/
theorem getElem?_frameSegments (v : Frame) (n : Nat) {j : Nat} (hj : j < 2 * n + 4) :
    ((frameSegments Config.machine v n)[j]?).map (segmentOf Config.machine) = some (segmentAt v n j) := by
  by_cases hdata : 2 ≤ j ∧ j < 2 * n + 2
  · obtain ⟨k, hk⟩ : ∃ k, j = 2 * k + 2 ∨ j = 2 * k + 3 := ⟨(j - 2) / 2, by omega⟩
    obtain ⟨hmark, hspace⟩ := getElem?_dataPulses Config.machine v n k (by omega)
    rcases hk with rfl | rfl
    · rw [getElem?_frameSegments_data _ _ (by omega), hmark, segmentAt_bitMark v (by omega), Option.map_some]
    · rw [getElem?_frameSegments_data _ _ (i := 2 * k + 1) (by omega), hspace, segmentAt_bitSpace v (by omega),
        Option.map_some]
  · obtain rfl | rfl | rfl | rfl : j = 0 ∨ j = 1 ∨ j = 2 * n + 2 + 0 ∨ j = 2 * n + 2 + 1 := by omega
    · rfl
    · rfl
    · rw [getElem?_frameSegments_end, segmentAt, if_neg (by omega), if_neg (by omega), if_pos (by omega)]
      rfl
    · rw [getElem?_frameSegments_end, segmentAt, if_neg (by omega), if_neg (by omega), if_neg (by omega),
        if_pos (by omega)]
      rfl

/-! ## SEND -/

/-- The second command of SEND takes the value of the response before it, 56 bits, one pass (R91). -/
theorem run_send (s : State) :
    HostOp.run Config.machine .send s = exec (.encode (stampFrame Config.machine s.frame) 0 56)
      ((s.writeFrame (stampFrame Config.machine s.frame)).respond
        (okResponse (stampFrame Config.machine s.frame))) := by
  rw [HostOp.run, HostOp.first, exec_getPacked]
  simp [HostOp.second, okResponse]

theorem exec_encode_once (v : Frame) (s : State) :
    exec (.encode v 0 56) s =
      .next ((s.emitAll Config.machine (frameSegments Config.machine v 56)).respond (okResponse 0)) := by
  rw [exec_encode_legal v 0 56 s (by decide), ← framePasses_one]
  rfl

/-- Settles O57: GETPACKED leaves the read-out and answers it, then ENCODE emits one pass of it. -/
theorem sendTransmitsTheReadOut : Obligations.SendTransmitsTheReadOut := by
  refine ⟨rfl, fun s => ⟨stampFrame Config.machine s.frame,
    (frameSegments Config.machine (stampFrame Config.machine s.frame) 56).map (segmentOf Config.machine),
    frameValid_stampFrame _, fun k => getLsbD_stampFrame _ _, exec_getPacked s, ?_, fun j hj => ?_, ?_⟩⟩
  · rw [List.length_map, length_frameSegments]
  · rw [List.getElem?_map, getElem?_frameSegments _ 56 hj]
  · rw [run_send, exec_encode_once]
    simp [State.respond, State.emitAll, State.writeFrame]

end Sys2Proof.Machine
end

section
/-! PROOF. The single-bit commands (40_field_access.md): the one bit each setter writes (R111, R113, R115, R117), the one
bit each getter answers (R112, R114, R116, R118, R148), and how setters and getters meet (R119). -/

namespace Sys2Proof.Machine

/-! ## Two writes to FRAME -/

theorem State.writeFrame_respond_writeFrame (s : State) (u v : Frame) (r : Response) :
    ((s.writeFrame u).respond r).writeFrame v = (s.writeFrame v).respond r := rfl

/-- Writes to two fields that have no bit in common commute (R21). -/
theorem setbits_comm (v : Frame) {o w o' w' : Nat} (d : BitVec w) (d' : BitVec w') (h : o + w ≤ 64) (h' : o' + w' ≤ 64)
    (apart : o + w ≤ o' ∨ o' + w' ≤ o) :
    setbits (setbits v o w d) o' w' d' = setbits (setbits v o' w' d') o w d := by
  apply BitVec.eq_of_getLsbD_eq
  intro k _
  simp only [getLsbD_setbits _ _ _ _ _ h, getLsbD_setbits _ _ _ _ _ h']
  by_cases hk : o ≤ k ∧ k < o + w
  · have hk' : ¬ (o' ≤ k ∧ k < o' + w') := by omega
    rw [if_neg hk', if_pos hk, if_pos hk]
  · rw [if_neg hk, if_neg hk]

/-! ## Setters of one bit -/

/-- A command that writes its operand to bit `o` of FRAME and answers 0. -/
def WritesBit (set : Bool → Instr) (o : Nat) : Prop :=
  ∀ (b : Bool) (s : State),
    exec (set b) s = .next ((s.writeFrame (setbits s.frame o 1 (bit b))).respond (okResponse 0))

/-- The frame a setter leaves, bit by bit. -/
theorem WritesBit.exists_frame {set : Bool → Instr} {o : Nat} (h : WritesBit set o) (ho : o < 64) (b : Bool)
    (s : State) : ∃ f : Frame, (∀ k, f.getLsbD k = if k = o then b else s.frame.getLsbD k)
      ∧ exec (set b) s = .next { s with frame := f, responses := s.responses ++ [okResponse 0] } :=
  ⟨setbits s.frame o 1 (bit b), fun k => getLsbD_setbits_bit s.frame o b k ho, h b s⟩

/-- Setters of two different bits commute. -/
theorem WritesBit.comm {set set' : Bool → Instr} {o o' : Nat} (h : WritesBit set o) (h' : WritesBit set' o')
    (ho : o < 64) (ho' : o' < 64) (hne : o ≠ o') (b c : Bool) (s : State) :
    ∃ t u v, exec (set b) s = .next t ∧ exec (set' c) t = .next v ∧ exec (set' c) s = .next u
      ∧ exec (set b) u = .next v := by
  refine ⟨_, _, _, h b s, h' c _, h' c s, (h b _).trans ?_⟩
  simp only [State.writeFrame_respond_writeFrame, State.respond_frame, State.writeFrame_frame]
  rw [setbits_comm s.frame (bit b) (bit c) ho ho' (by omega)]

/-- A word with the OP value of a command of format F decodes to it, with bit 0 of the word (R82, R87). -/
theorem decodesAs_formatF (set : Bool → Instr) (hset : ∀ w, (set false).withOperandsOf w = set (cBool w)) :
    DecodesAs (opcode (set false)).toNat (fun w => set (w.getLsbD 0)) := by
  intro w hw
  show decode w = .ok (set (w.getLsbD 0))
  rw [← cBool_eq, ← hset]
  exact decodesAs_withOperandsOf (set false) w hw

/-- Settles O18: POWER is bit 47 (R22). -/
theorem setPowerWritesPowerBit : Obligations.SetPowerWritesPowerBit :=
  ⟨decodesAs_formatF .setPower fun _ => rfl, WritesBit.exists_frame exec_setPower (by decide)⟩

/-- Settles O19: UNIT_F is bit 38 (R22). -/
theorem setTempUnitWritesUnitBit : Obligations.SetTempUnitWritesUnitBit :=
  ⟨decodesAs_formatF .setTempUnit fun _ => rfl, WritesBit.exists_frame exec_setTempUnit (by decide)⟩

/-- Settles O20: SWING is bit 37 (R22). -/
theorem setSwingWritesSwingBit : Obligations.SetSwingWritesSwingBit :=
  ⟨decodesAs_formatF .setSwing fun _ => rfl, WritesBit.exists_frame exec_setSwing (by decide)⟩

/-- Settles O21: SLEEP is bit 36 (R22). -/
theorem setSleepWritesSleepBit : Obligations.SetSleepWritesSleepBit :=
  ⟨decodesAs_formatF .setSleep fun _ => rfl, WritesBit.exists_frame exec_setSleep (by decide)⟩

/-! ## Getters of one bit -/

/-- A command that answers bit `o` of FRAME, zero-extended, and changes nothing. -/
def AnswersBit (get : Instr) (o : Nat) : Prop :=
  ∀ s : State, exec get s = .next (s.respond (okResponse (if s.frame.getLsbD o then 1 else 0)))

theorem AnswersBit.of_getbits {get : Instr} {o : Nat}
    (h : ∀ s, exec get s = .next (s.respond (okResponse (zext64 (getbits s.frame o 1))))) : AnswersBit get o := by
  intro s
  rw [h, zext64_getbits_one]
  rfl

theorem answersBit_getPower : AnswersBit .getPower 47 := .of_getbits exec_getPower
theorem answersBit_getTempUnit : AnswersBit .getTempUnit 38 := .of_getbits exec_getTempUnit
theorem answersBit_getSwing : AnswersBit .getSwing 37 := .of_getbits exec_getSwing
theorem answersBit_getSleep : AnswersBit .getSleep 36 := .of_getbits exec_getSleep
theorem answersBit_getTimerEn : AnswersBit .getTimerEn 39 := .of_getbits exec_getTimerEn

/-- Settles O22, getter by getter. -/
theorem singleBitGettersAnswerTheirBit : Obligations.SingleBitGettersAnswerTheirBit := by
  refine ⟨⟨decodesAs_withOperandsOf .getPower, decodesAs_withOperandsOf .getTempUnit,
    decodesAs_withOperandsOf .getSwing, decodesAs_withOperandsOf .getSleep, decodesAs_withOperandsOf .getTimerEn⟩,
    fun s => ?_⟩
  simp only [List.forall_mem_cons, List.not_mem_nil, false_implies, implies_true, and_true]
  exact ⟨answersBit_getPower s, answersBit_getTempUnit s, answersBit_getSwing s, answersBit_getSleep s,
    answersBit_getTimerEn s⟩

/-! ## The fields a getter reads -/

/-- The fields of FRAME that a command's response depends on (R112 to R118, R133 to R148, R163). -/
def fieldsAnswered : Instr → List FieldPos
  | .getPower => [Layout.power]
  | .getTempUnit => [Layout.unitF]
  | .getSwing => [Layout.swing]
  | .getSleep => [Layout.sleep]
  | .getTemp => [Layout.temp]
  | .getFan => [Layout.fan]
  | .getMode => [Layout.mode]
  | .getTimer => [Layout.timerEn, Layout.timerHours]
  | .getTimerEn => [Layout.timerEn]
  | .getPacked => Layout.fields
  | _ => []

/-- A read of a field depends on that field only. -/
theorem getbits_congr {v v' : Frame} {o w : Nat} (h : fieldAt v' o w = fieldAt v o w) :
    getbits v' o w = getbits v o w :=
  BitVec.eq_of_toNat_eq (by rw [toNat_getbits, toNat_getbits, h])

/-- Two frames hold the same in each of the fields listed. -/
def SameFields (listed : List FieldPos) (v v' : Frame) : Prop :=
  ∀ f ∈ listed, fieldAt v' f.offset f.width = fieldAt v f.offset f.width

/-- A command that answers a value of its fields of FRAME and changes nothing. -/
def AnswersFields (get : Instr) : Prop :=
  ∃ value : Frame → BitVec 64, (∀ s : State, exec get s = .next (s.respond (okResponse (value s.frame))))
    ∧ ∀ v v', SameFields (fieldsAnswered get) v v' → value v' = value v

/-- A getter of one field. -/
theorem AnswersFields.of_getbits {get : Instr} (f : FieldPos)
    (h : ∀ s, exec get s = .next (s.respond (okResponse (zext64 (getbits s.frame f.offset f.width)))))
    (hf : f ∈ fieldsAnswered get := by decide) : AnswersFields get :=
  ⟨fun v => zext64 (getbits v f.offset f.width), h, fun _ _ same => congrArg zext64 (getbits_congr (same f hf))⟩

/-- GETTIMER reads two fields (R147). -/
theorem timerMinutes_congr {v v' : Frame} (same : SameFields [Layout.timerEn, Layout.timerHours] v v') :
    timerMinutes v' = timerMinutes v := by
  have hours : getTimerHours v' = getTimerHours v := getbits_congr (same Layout.timerHours (by decide))
  have enabled : getTimerEnBit v' = getTimerEnBit v := getbits_congr (same Layout.timerEn (by decide))
  rw [timerMinutes, timerMinutes, hours, enabled]

/-- The nine getters of 40_field_access.md and 41_interdependent_setters.md. -/
def fieldGetters : List Instr :=
  [.getPower, .getTempUnit, .getSwing, .getSleep, .getTemp, .getFan, .getMode, .getTimer, .getTimerEn]

theorem answersFields_of_mem : ∀ g ∈ fieldGetters, AnswersFields g := by
  simp only [fieldGetters, List.forall_mem_cons, List.not_mem_nil, false_implies, implies_true, and_true]
  exact ⟨.of_getbits Layout.power exec_getPower, .of_getbits Layout.unitF exec_getTempUnit,
    .of_getbits Layout.swing exec_getSwing, .of_getbits Layout.sleep exec_getSleep,
    .of_getbits Layout.temp exec_getTemp, .of_getbits Layout.fan exec_getFan, .of_getbits Layout.mode exec_getMode,
    ⟨fun v => BitVec.ofNat 64 (timerMinutes v), exec_getTimer,
      fun _ _ same => congrArg (BitVec.ofNat 64) (timerMinutes_congr same)⟩,
    .of_getbits Layout.timerEn exec_getTimerEn⟩

/-- Where its fields hold the same, a getter answers the same. -/
theorem AnswersFields.alike {get : Instr} (h : AnswersFields get) {s t : State} {r : Response}
    (same : SameFields (fieldsAnswered get) s.frame t.frame) (hs : exec get s = .next (s.respond r)) :
    exec get t = .next (t.respond r) := by
  obtain ⟨value, hx, congr⟩ := h
  have hr : s.responses ++ [okResponse (value s.frame)] = s.responses ++ [r] :=
    congrArg State.responses (Host.Outcome.next.inj ((hx s).symm.trans hs))
  obtain rfl : okResponse (value s.frame) = r := List.singleton_inj.mp (List.append_cancel_left hr)
  rw [hx, congr _ _ same]

/-! ## Pairs of a setter and a getter (R119) -/

/-- The pairs of 40_field_access.md, each with its bit of FRAME. -/
inductive BitPair : (Bool → Instr) → Instr → Nat → Prop
  | power : BitPair .setPower .getPower 47
  | tempUnit : BitPair .setTempUnit .getTempUnit 38
  | swing : BitPair .setSwing .getSwing 37
  | sleep : BitPair .setSleep .getSleep 36

namespace BitPair

variable {set set' : Bool → Instr} {get get' : Instr} {o : Nat}

theorem writesBit (h : BitPair set get o) : WritesBit set o := by
  cases h with
  | power => exact exec_setPower
  | tempUnit => exact exec_setTempUnit
  | swing => exact exec_setSwing
  | sleep => exact exec_setSleep

theorem answersBit (h : BitPair set get o) : AnswersBit get o := by
  cases h with
  | power => exact answersBit_getPower
  | tempUnit => exact answersBit_getTempUnit
  | swing => exact answersBit_getSwing
  | sleep => exact answersBit_getSleep

theorem bit_lt (h : BitPair set get o) : o < 64 := by
  cases h <;> decide

/-- Two pairs on one bit are one pair. -/
theorem get_unique (h : BitPair set get o) (h' : BitPair set' get' o) : get = get' := by
  cases h <;> cases h' <;> rfl

/-- No other getter reads the pair's bit (R22). -/
theorem apart (h : BitPair set get o) : ∀ g ∈ fieldGetters, g ≠ get → ∀ f ∈ fieldsAnswered g,
    f.offset + f.width ≤ o ∨ o + 1 ≤ f.offset := by
  cases h <;> decide

/-- After the setter its getter answers the operand. -/
theorem read_back (h : BitPair set get o) (b : Bool) (s : State) : ∃ t u, exec (set b) s = .next t
    ∧ exec get t = .next u ∧ u.responses = t.responses ++ [okResponse (if b then 1 else 0)] := by
  refine ⟨_, _, h.writesBit b s, h.answersBit _, ?_⟩
  rw [State.respond_responses, State.respond_frame, State.writeFrame_frame, getLsbD_setbits_bit _ _ _ _ h.bit_lt,
    if_pos rfl]

/-- The setter leaves what every other getter answers. -/
theorem other_getter (h : BitPair set get o) {b : Bool} {s t : State} (ht : exec (set b) s = .next t) {g : Instr}
    (hg : g ∈ fieldGetters) (hne : g ≠ get) {r : Response} (hr : exec g s = .next (s.respond r)) :
    exec g t = .next (t.respond r) := by
  rw [h.writesBit] at ht
  cases ht
  exact (answersFields_of_mem g hg).alike
    (fun f hf => fieldAt_setbits_other s.frame o 1 (bit b) _ _ h.bit_lt (h.apart g hg hne f hf)) hr

end BitPair

/-- The four pairs as R119 counts them. -/
def bitPairs : List ((Bool → Instr) × Instr) :=
  [(.setPower, .getPower), (.setTempUnit, .getTempUnit), (.setSwing, .getSwing), (.setSleep, .getSleep)]

theorem exists_bitPair_of_mem : ∀ p ∈ bitPairs, ∃ o, BitPair p.1 p.2 o := by
  simp only [bitPairs, List.forall_mem_cons, List.not_mem_nil, false_implies, implies_true, and_true]
  exact ⟨⟨47, .power⟩, ⟨38, .tempUnit⟩, ⟨37, .swing⟩, ⟨36, .sleep⟩⟩

/-- Settles O23: a pair's bit reads back, no other getter reads it, and two pairs have different bits. -/
theorem bitSettersAndGettersAgree : Obligations.BitSettersAndGettersAgree := by
  intro b c s pairs getters
  constructor
  · intro p hp
    obtain ⟨o, h⟩ := exists_bitPair_of_mem p hp
    obtain ⟨t, u, ht, hu, hback⟩ := h.read_back b s
    exact ⟨t, u, ht, hu, hback, fun g hg hne r hr => h.other_getter ht hg hne hr⟩
  · intro p hp q hq hne
    obtain ⟨o, h⟩ := exists_bitPair_of_mem p hp
    obtain ⟨o', h'⟩ := exists_bitPair_of_mem q hq
    have bits_ne : o ≠ o' := fun e => hne (h.get_unique (e ▸ h'))
    exact h.writesBit.comm h'.writesBit h.bit_lt h'.bit_lt bits_ne b c s

end Sys2Proof.Machine
end

section
/-! PROOF. The interdependent setters, bit by bit (41_interdependent_setters.md): the state validator's three functions
as tables (R134, R137, R141), what SETTEMP, SETTEMPCUR, SETFAN, SETMODE and SETTIMER leave in FRAME (R131, R132, R136,
R140, R146), and what their getters answer (R133, R138, R142, R147). -/

namespace Sys2Proof.Machine

/-! ## The state validator (R134, R137, R141) -/

/-- Settles O28: Dry gives Low whatever is asked; else the three small requests one by one, then all above High. -/
theorem fannormTable : Obligations.FannormTable := by
  intro s m
  by_cases dry : m = 2
  · by_cases low : s = 1 <;> simp [fannorm, dry, low]
  · match s with
    | 0 | 1 | 2 | 3 | 4 => simp [fannorm, dry]
    | s + 5 => simp [fannorm, dry]

/-- Settles O29. -/
theorem modenormSubstitutesCool : Obligations.ModenormSubstitutesCool := fun m =>
  ⟨fun code => if_pos code, fun h1 h2 h4 h8 => if_neg (by simp [h1, h2, h4, h8])⟩

/-- The codes of R37. -/
def LegalMode (m : Nat) : Prop := m = 1 ∨ m = 2 ∨ m = 4 ∨ m = 8

theorem legalMode_modenorm (m : Nat) : LegalMode (modenorm Config.machine m) := by
  obtain ⟨kept, cool⟩ := modenormSubstitutesCool m
  by_cases code : LegalMode m
  · rwa [kept code]
  · obtain ⟨h1, h2, h4, h8⟩ : m ≠ 1 ∧ m ≠ 2 ∧ m ≠ 4 ∧ m ≠ 8 := by simpa [LegalMode] using code
    exact .inl (cool h1 h2 h4 h8)

theorem LegalMode.lt {m : Nat} (h : LegalMode m) : m < 2 ^ 4 := by
  unfold LegalMode at h
  omega

/-- A legal mode, a legal fan speed, and Low in Dry (R150). -/
def FanFitsMode (mode fan : Nat) : Prop := LegalMode mode ∧ (fan = 1 ∨ fan = 2 ∨ fan = 4) ∧ (mode = 2 → fan = 1)

/-- Whatever is asked, the normalised fan speed fits the mode it was normalised for. -/
theorem fanFitsMode_fannorm {mode : Nat} (legal : LegalMode mode) (speed : Nat) :
    FanFitsMode mode (fannorm Config.machine speed mode) := by
  refine ⟨legal, ?_⟩
  rw [fannormTable]
  by_cases dry : mode = 2
  · simp [dry]
  · rw [if_neg dry]
    exact ⟨by split_ifs <;> simp, fun h => absurd h dry⟩

theorem fannorm_lt (speed mode : Nat) : fannorm Config.machine speed mode < 2 ^ 4 := by
  rw [fannormTable]
  split_ifs <;> decide

/-- The bounds of R134, as numbers. -/
theorem tempclamp_machine (d : Nat) (f : Bool) :
    tempclamp Config.machine d f = if f then min (max d 61) 86 else min (max d 16) 30 := by
  cases f <;> rfl

/-- A clamped value fits in eight bits. -/
theorem toNat_tempclamp (d : Nat) (f : Bool) :
    (BitVec.ofNat 8 (tempclamp Config.machine d f)).toNat = if f then min (max d 61) 86 else min (max d 16) 30 := by
  rw [BitVec.toNat_ofNat, tempclamp_machine]
  apply Nat.mod_eq_of_lt
  split <;> omega

/-- A field written with a number that fits in it holds that number. -/
theorem fieldAt_setbits_ofNat (v : Frame) {o w d : Nat} (h : o + w ≤ 64) (fits : d < 2 ^ w) :
    fieldAt (setbits v o w (BitVec.ofNat w d)) o w = d := by
  rw [fieldAt_setbits_same v o w _ h, BitVec.toNat_ofNat, Nat.mod_eq_of_lt fits]

/-! ## The words (R82, R84) -/

/-- A word with the OP value of a command of format S with a byte operand decodes to it, with bits 23:16 of the word. -/
theorem decodesAs_formatS_byte (set : BitVec 8 → Instr) (hset : ∀ w, (set 0).withOperandsOf w = set (bByte w)) :
    DecodesAs (opcode (set 0)).toNat (fun w => set (BitVec.ofNat 8 (w.toNat / 2 ^ 16))) := by
  simp only [← bByte_eq_ofNat, ← hset]
  exact decodesAs_withOperandsOf (set 0)

/-! ## The temperature setter (R131, R132) -/

/-- The frame the temperature setter leaves, bit by bit: UNIT_F is bit 38, TEMP bits 31:24. -/
theorem getLsbD_applyTemp_frame (s : State) (d : Nat) (f : Bool) (k : Nat) :
    (s.applyTemp Config.machine d f).frame.getLsbD k =
      if k = 38 then f
      else if 24 ≤ k ∧ k ≤ 31 then (BitVec.ofNat 8 (tempclamp Config.machine d f)).getLsbD (k - 24)
      else s.frame.getLsbD k := by
  rw [State.applyTemp_frame, getLsbD_setTempField, getLsbD_setUnitF]
  grind

/-- Settles O24. -/
theorem setTempClampsAndSaves : Obligations.SetTempClampsAndSaves := by
  constructor
  · simp only [← bByte_eq_ofNat, ← cBool_eq]
    exact decodesAs_withOperandsOf (.setTemp 0 false)
  · exact fun d u s => ⟨(s.applyTemp Config.machine d.toNat u).frame, _, toNat_tempclamp d.toNat u,
      getLsbD_applyTemp_frame s d.toNat u, rfl⟩

/-- Settles O25: the temperature setter for the unit in bit 38, which it writes back. -/
theorem setTempCurTakesFrameUnit : Obligations.SetTempCurTakesFrameUnit := by
  refine ⟨decodesAs_formatS_byte .setTempCur fun _ => rfl, fun d s =>
    ⟨(s.applyTemp Config.machine d.toNat (s.frame.getLsbD 38)).frame, _, toNat_tempclamp d.toNat _, fun k => ?_, ?_⟩⟩
  · rw [getLsbD_applyTemp_frame]
    by_cases hk : k = 38
    · simp [hk]
    · rw [if_neg hk]
  · rw [exec_setTempCur, unitOf_eq]
    rfl

/-! ## The fan setter (R136) -/

theorem fieldAt_setFanField_fannorm (v : Frame) (speed mode : Nat) :
    fieldAt (setFanField v (fannorm Config.machine speed mode)) 32 4 = fannorm Config.machine speed mode :=
  fieldAt_setbits_ofNat v (by decide) (fannorm_lt speed mode)

/-- Settles O27. -/
theorem setFanStoresNormalisedSpeed : Obligations.SetFanStoresNormalisedSpeed := by
  refine ⟨decodesAs_formatS_byte .setFan fun _ => rfl, fun v s =>
    ⟨(s.applyFan Config.machine v.toNat).frame, ?_, fun k hk => ?_, rfl⟩⟩
  · rw [State.applyFan_frame, fieldAt_setFanField_fannorm, toNat_getModeField]
  · rw [State.applyFan_frame, getLsbD_setFanField, if_neg (by omega)]

/-! ## The mode setter (R140) -/

theorem fieldAt_setModeField_modenorm (v : Frame) (m : Nat) :
    fieldAt (setModeField v (modenorm Config.machine m)) 40 4 = modenorm Config.machine m :=
  fieldAt_setbits_ofNat v (by decide) (legalMode_modenorm m).lt

/-- The frame after SETMODE's first two steps: the mode, then the old fan field normalised for it. -/
def frameForMode (v : Frame) (m : Nat) : Frame :=
  setFanField (setModeField v (modenorm Config.machine m))
    (fannorm Config.machine (fieldAt v 32 4) (modenorm Config.machine m))

/-- SETMODE's third step is the temperature setter with the saved pair. -/
theorem exec_setMode_frameForMode (m : BitVec 8) (s : State) :
    exec (.setMode m) s = .next (((s.writeFrame (frameForMode s.frame m.toNat)).applyTemp Config.machine
      s.savedTemp.toNat s.savedUnit).respond (okResponse 0)) := by
  have fan : fieldAt (setModeField s.frame (modenorm Config.machine m.toNat)) 32 4 = fieldAt s.frame 32 4 :=
    fieldAt_setbits_other _ _ _ _ _ _ (by decide) (by decide)
  rw [exec_setMode, State.applyFan, State.applyMode_frame, toNat_getFanField, toNat_getModeField, fan,
    fieldAt_setModeField_modenorm]
  rfl

theorem fieldAt_frameForMode_fan (v : Frame) (m : Nat) :
    fieldAt (frameForMode v m) 32 4 = fannorm Config.machine (fieldAt v 32 4) (modenorm Config.machine m) :=
  fieldAt_setFanField_fannorm _ _ _

theorem fieldAt_frameForMode_mode (v : Frame) (m : Nat) :
    fieldAt (frameForMode v m) 40 4 = modenorm Config.machine m := by
  rw [frameForMode, setFanField, fieldAt_setbits_other _ _ _ _ _ _ (by decide) (by decide),
    fieldAt_setModeField_modenorm]

theorem getLsbD_frameForMode_other (v : Frame) (m : Nat) {k : Nat} (hk : k < 32 ∨ (36 ≤ k ∧ k < 40) ∨ 44 ≤ k) :
    (frameForMode v m).getLsbD k = v.getLsbD k := by
  rw [frameForMode, getLsbD_setFanField, if_neg (by omega), getLsbD_setModeField, if_neg (by omega)]

/-- The temperature setter leaves a field apart from TEMP and UNIT_F as it was. -/
theorem fieldAt_applyTemp_other (s : State) (d : Nat) (f : Bool) {o w : Nat}
    (hTemp : o + w ≤ 24 ∨ 32 ≤ o) (hUnit : o + w ≤ 38 ∨ 39 ≤ o) :
    fieldAt (s.applyTemp Config.machine d f).frame o w = fieldAt s.frame o w :=
  fieldAt_congr fun k _ _ => by rw [getLsbD_applyTemp_frame, if_neg (by omega), if_neg (by omega)]

theorem fieldAt_applyTemp_temp (s : State) (d : Nat) (f : Bool) :
    fieldAt (s.applyTemp Config.machine d f).frame 24 8 = (BitVec.ofNat 8 (tempclamp Config.machine d f)).toNat :=
  fieldAt_setbits_same _ _ _ _ (by decide)

/-- Settles O30: the first two steps fix the mode and the fan field, which the third leaves; the third fixes the rest. -/
theorem setModeReappliesFanAndTemperature : Obligations.SetModeReappliesFanAndTemperature := by
  refine ⟨decodesAs_formatS_byte .setMode fun _ => rfl, fun m s =>
    ⟨((s.writeFrame (frameForMode s.frame m.toNat)).applyTemp Config.machine s.savedTemp.toNat s.savedUnit).frame, _,
      toNat_tempclamp s.savedTemp.toNat s.savedUnit, ?_, ?_, fieldAt_applyTemp_temp _ _ _, ?_, fun k hk => ?_,
      exec_setMode_frameForMode m s⟩⟩
  · rw [fieldAt_applyTemp_other _ _ _ (by decide) (by decide), State.writeFrame_frame, fieldAt_frameForMode_mode]
  · rw [fieldAt_applyTemp_other _ _ _ (by decide) (by decide), State.writeFrame_frame, fieldAt_frameForMode_fan]
  · rw [getLsbD_applyTemp_frame, if_pos rfl]
  · rw [getLsbD_applyTemp_frame, if_neg (by omega), if_neg (by omega), State.writeFrame_frame,
      getLsbD_frameForMode_other _ _ (by omega)]

/-! ## The timer setter (R146) -/

/-- The frame SETTIMER leaves. -/
def frameForTimer (v : Frame) (minutes : Nat) : Frame :=
  setTimerEnBit (setTimerHours v (clampHours Config.machine (wholeHours minutes))) (timerEnabled (wholeHours minutes))

theorem exec_setTimer_frameForTimer (m : BitVec 16) (s : State) :
    exec (.setTimer m) s = .next ((s.writeFrame (frameForTimer s.frame m.toNat)).respond (okResponse 0)) :=
  exec_setTimer m s

/-- The clamped hours fit in eight bits. -/
theorem fieldAt_frameForTimer_hours (v : Frame) (minutes : Nat) :
    fieldAt (frameForTimer v minutes) 16 8 = min (minutes / 60) 24 := by
  have fits : min (minutes / 60) 24 < 2 ^ 8 := by omega
  rw [frameForTimer, setTimerEnBit, fieldAt_setbits_other _ _ _ _ _ _ (by decide) (by decide)]
  exact fieldAt_setbits_ofNat v (by decide) fits

theorem getLsbD_frameForTimer_enable (v : Frame) (minutes : Nat) :
    (frameForTimer v minutes).getLsbD 39 = decide (60 ≤ minutes) := by
  rw [frameForTimer, getLsbD_setTimerEnBit, if_pos rfl]
  exact decide_eq_decide.mpr (Nat.div_pos_iff.trans (by simp))

theorem getLsbD_frameForTimer_other (v : Frame) (minutes : Nat) {k : Nat} (hours : k < 16 ∨ 24 ≤ k) (enable : k ≠ 39) :
    (frameForTimer v minutes).getLsbD k = v.getLsbD k := by
  rw [frameForTimer, getLsbD_setTimerEnBit, if_neg enable, getLsbD_setTimerHours, if_neg (by omega)]

/-- Settles O31. -/
theorem setTimerStoresWholeHours : Obligations.SetTimerStoresWholeHours := by
  constructor
  · simp only [← bField_eq_ofNat]
    exact decodesAs_withOperandsOf (.setTimer 0)
  · exact fun m s => ⟨frameForTimer s.frame m.toNat, fieldAt_frameForTimer_hours _ _,
      getLsbD_frameForTimer_enable _ _, fun _ => getLsbD_frameForTimer_other _ _, exec_setTimer_frameForTimer m s⟩

/-! ## The getters (R133, R138, R142, R147) -/

/-- Settles O26, getter by getter. -/
theorem fieldGettersAnswerTheirField : Obligations.FieldGettersAnswerTheirField := by
  refine ⟨⟨decodesAs_withOperandsOf .getTemp, decodesAs_withOperandsOf .getFan, decodesAs_withOperandsOf .getMode⟩,
    fun s => ?_⟩
  simp only [List.forall_mem_cons, List.not_mem_nil, false_implies, implies_true, and_true, ← zext64_getbits]
  exact ⟨exec_getTemp s, exec_getFan s, exec_getMode s⟩

/-- What GETTIMER answers, by bit 39 and bits 23:16. -/
theorem timerMinutes_eq (v : Frame) : timerMinutes v = if v.getLsbD 39 then fieldAt v 16 8 * 60 else 0 := by
  have enable : getTimerEnBit v = 0#1 ↔ v.getLsbD 39 = false := by
    rw [← BitVec.toNat_inj, getTimerEnBit, toNat_getbits]
    simp [Layout.timerEn, fieldAt_one]
  rw [timerMinutes, toNat_getTimerHours]
  by_cases h : v.getLsbD 39
  · rw [if_neg (by rw [enable, h]; decide), if_pos h]
  · rw [if_pos (enable.mpr (by simpa using h)), if_neg h]

/-- Settles O32. -/
theorem getTimerAnswersMinutes : Obligations.GetTimerAnswersMinutes := by
  refine ⟨decodesAs_withOperandsOf .getTimer, fun s => ?_⟩
  rw [← timerMinutes_eq]
  exact exec_getTimer s

end Sys2Proof.Machine
end

section
/-! PROOF. Consistency of FRAME (R150) as three independent parts, which the setters establish and every command keeps:
the fan under the mode, the timer, the temperature in its unit. -/

namespace Sys2Proof.Machine

/-! ## The parts of consistency (R150) -/

/-- The hours are at most 24, and the enable field is 1 exactly when there are any. -/
def TimerAgrees (enable hours : Nat) : Prop := hours ≤ 24 ∧ (enable = 1 ↔ 0 < hours)

/-- The temperature is in the range of its unit, 1 = Fahrenheit. -/
def TempInRange (unit temp : Nat) : Prop := if unit = 1 then 61 ≤ temp ∧ temp ≤ 86 else 16 ≤ temp ∧ temp ≤ 30

theorem consistent_iff (v : Frame) : Consistent v ↔ FanFitsMode (fieldAt v 40 4) (fieldAt v 32 4)
    ∧ TimerAgrees (fieldAt v 39 1) (fieldAt v 16 8) ∧ TempInRange (fieldAt v 38 1) (fieldAt v 24 8) :=
  ⟨fun ⟨mode, fan, dryLow, hours, timerEn, temp⟩ => ⟨⟨mode, fan, dryLow⟩, ⟨hours, timerEn⟩, temp⟩,
    fun ⟨⟨mode, fan, dryLow⟩, ⟨hours, timerEn⟩, temp⟩ => ⟨mode, fan, dryLow, hours, timerEn, temp⟩⟩

/-! ## What each setter makes of its part -/

/-- SETFAN makes the fan field fit a legal mode. -/
theorem exec_setFan_fanFitsMode {speed : BitVec 8} {s t : State} (h : exec (.setFan speed) s = .next t)
    (legal : LegalMode (fieldAt s.frame 40 4)) : FanFitsMode (fieldAt t.frame 40 4) (fieldAt t.frame 32 4) := by
  obtain ⟨f, fan, outside, hx⟩ := setFanStoresNormalisedSpeed.2 speed s
  cases hx.symm.trans h
  have mode : fieldAt f 40 4 = fieldAt s.frame 40 4 := fieldAt_congr fun k _ _ => outside k (by omega)
  show FanFitsMode (fieldAt f 40 4) (fieldAt f 32 4)
  rw [mode, fan]
  exact fanFitsMode_fannorm legal _

/-- SETMODE makes the mode legal and the fan field fit it, from any frame. -/
theorem exec_setMode_fanFitsMode {m : BitVec 8} {s t : State} (h : exec (.setMode m) s = .next t) :
    FanFitsMode (fieldAt t.frame 40 4) (fieldAt t.frame 32 4) := by
  obtain ⟨f, temp, -, mode, fan, -, -, -, hx⟩ := setModeReappliesFanAndTemperature.2 m s
  cases hx.symm.trans h
  show FanFitsMode (fieldAt f 40 4) (fieldAt f 32 4)
  rw [mode, fan]
  exact fanFitsMode_fannorm (legalMode_modenorm _) _

/-- SETTIMER makes the timer fields agree, from any frame. -/
theorem exec_setTimer_timerAgrees {m : BitVec 16} {s t : State} (h : exec (.setTimer m) s = .next t) :
    TimerAgrees (fieldAt t.frame 39 1) (fieldAt t.frame 16 8) := by
  obtain ⟨f, hours, enable, -, hx⟩ := setTimerStoresWholeHours.2 m s
  cases hx.symm.trans h
  show TimerAgrees (fieldAt f 39 1) (fieldAt f 16 8)
  rw [fieldAt_one, enable, hours]
  constructor
  · omega
  · by_cases hm : 60 ≤ m.toNat <;> simp [hm]

/-- After the temperature setter FRAME holds the saved pair, which is in range. -/
theorem exec_runsTempSetter_saved {i : Instr} (hi : RunsTempSetter i) {s t : State} (h : exec i s = .next t) :
    fieldAt t.frame 24 8 = t.savedTemp.toNat ∧ t.frame.getLsbD 38 = t.savedUnit ∧ SavedConsistent t := by
  obtain ⟨v, d, f, -, hx⟩ := exec_runsTempSetter hi s
  cases hx.symm.trans h
  exact ⟨fieldAt_applyTemp_temp _ _ _, getLsbD_applyTemp_frame _ _ _ _,
    savedConsistent_applyTemp (s.writeFrame v) d f⟩

theorem exec_runsTempSetter_tempInRange {i : Instr} (hi : RunsTempSetter i) {s t : State} (h : exec i s = .next t) :
    TempInRange (fieldAt t.frame 38 1) (fieldAt t.frame 24 8) := by
  obtain ⟨temp, unit, saved⟩ := exec_runsTempSetter_saved hi h
  rw [fieldAt_one, temp, unit]
  unfold SavedConsistent at saved
  unfold TempInRange
  cases hu : t.savedUnit <;> simpa [hu] using saved

/-! ## Every command keeps each part (R151) -/

theorem SavedConsistent.effect {i : Instr} {s t : State} (hs : SavedConsistent s) (h : Effect s i t) :
    SavedConsistent t := by
  cases h with
  | reset v r => exact savedConsistent_default (s.writeFrame v)
  | temp _ _ v _ d f r => exact savedConsistent_applyTemp (s.writeFrame v) d f
  | _ => exact hs

variable {i : Instr} {s t : State}

/-- A field of FRAME that the command is not listed for is as it was (R22). -/
theorem exec_fieldAt_other (h : exec i s = .next t) {f : FieldPos} (hn : f ∉ fieldsWritten i)
    (hf : f ∈ Layout.fields := by decide) : fieldAt t.frame f.offset f.width = fieldAt s.frame f.offset f.width :=
  (exec_effect h).sameFieldsBut f hf hn

theorem exec_keeps_fanFitsMode (hr : i ≠ .reset) (hl : ∀ v, i ≠ .loadPacked v) (h : exec i s = .next t)
    (hs : FanFitsMode (fieldAt s.frame 40 4) (fieldAt s.frame 32 4)) :
    FanFitsMode (fieldAt t.frame 40 4) (fieldAt t.frame 32 4) := by
  obtain ⟨-, -, -, setsMode, -, -, -, -, setsFan, -⟩ := writers_of_field i hr hl
  by_cases hm : ∃ m, i = .setMode m
  · obtain ⟨m, rfl⟩ := hm
    exact exec_setMode_fanFitsMode h
  · by_cases hf : ∃ v, i = .setFan v
    · obtain ⟨v, rfl⟩ := hf
      exact exec_setFan_fanFitsMode h hs.1
    · have mode : fieldAt t.frame 40 4 = fieldAt s.frame 40 4 := exec_fieldAt_other h (mt setsMode hm)
      have fan : fieldAt t.frame 32 4 = fieldAt s.frame 32 4 := exec_fieldAt_other h (mt setsFan (not_or.mpr ⟨hf, hm⟩))
      rwa [mode, fan]

theorem exec_keeps_timerAgrees (hr : i ≠ .reset) (hl : ∀ v, i ≠ .loadPacked v) (h : exec i s = .next t)
    (hs : TimerAgrees (fieldAt s.frame 39 1) (fieldAt s.frame 16 8)) :
    TimerAgrees (fieldAt t.frame 39 1) (fieldAt t.frame 16 8) := by
  obtain ⟨-, -, -, -, setsTimer, -⟩ := writers_of_field i hr hl
  by_cases hm : ∃ m, i = .setTimer m
  · obtain ⟨m, rfl⟩ := hm
    exact exec_setTimer_timerAgrees h
  · obtain ⟨enableKept, hoursKept⟩ := not_or.mp (mt setsTimer hm)
    have enable : fieldAt t.frame 39 1 = fieldAt s.frame 39 1 := exec_fieldAt_other h enableKept
    have hours : fieldAt t.frame 16 8 = fieldAt s.frame 16 8 := exec_fieldAt_other h hoursKept
    rwa [enable, hours]

/-- SETTEMPUNIT is left out: it changes the unit under the temperature. -/
theorem exec_keeps_tempInRange (hr : i ≠ .reset) (hl : ∀ v, i ≠ .loadPacked v) (hu : ∀ f, i ≠ .setTempUnit f)
    (h : exec i s = .next t) (hs : TempInRange (fieldAt s.frame 38 1) (fieldAt s.frame 24 8)) :
    TempInRange (fieldAt t.frame 38 1) (fieldAt t.frame 24 8) := by
  obtain ⟨-, -, -, -, -, setsUnit, -, -, -, setsTemp⟩ := writers_of_field i hr hl
  by_cases hi : RunsTempSetter i
  · exact exec_runsTempSetter_tempInRange hi h
  · have noUnit : ¬ ∃ f, i = .setTempUnit f := fun ⟨f, hf⟩ => hu f hf
    have unit : fieldAt t.frame 38 1 = fieldAt s.frame 38 1 :=
      exec_fieldAt_other h (mt setsUnit (not_or.mpr ⟨noUnit, hi⟩))
    have temp : fieldAt t.frame 24 8 = fieldAt s.frame 24 8 := exec_fieldAt_other h (mt setsTemp hi)
    rwa [unit, temp]

end Sys2Proof.Machine
end

section
/-! PROOF. FRAME and the saved pair stay consistent (R151), and SETMODE and SETTIMER repair any frame (R267). -/

namespace Sys2Proof.Machine

/-- Settles O33: RESET leaves the default configuration, every other command keeps the three parts one by one. -/
theorem commandsKeepFrameConsistent : Obligations.CommandsKeepFrameConsistent := by
  intro i s t hl hu saved consistent h
  refine ⟨?_, saved.effect (exec_effect h)⟩
  by_cases hr : i = .reset
  · subst hr
    cases h
    exact consistent_reset
  · obtain ⟨fan, timer, temp⟩ := (consistent_iff _).mp consistent
    exact (consistent_iff _).mpr ⟨exec_keeps_fanFitsMode hr hl h fan, exec_keeps_timerAgrees hr hl h timer,
      exec_keeps_tempInRange hr hl hu h temp⟩

/-- A consistent saved temperature is the clamp's own fixed point (R134, R150). -/
theorem tempclamp_of_savedConsistent {s : State} (hs : SavedConsistent s) :
    tempclamp Config.machine s.savedTemp.toNat s.savedUnit = s.savedTemp.toNat := by
  unfold SavedConsistent at hs
  rw [tempclamp_machine]
  split_ifs at hs ⊢ <;> omega

/-- SETMODE leaves a consistent saved pair as it was. -/
theorem exec_setMode_keeps_saved {m : BitVec 8} {s t : State} (hs : SavedConsistent s)
    (h : exec (.setMode m) s = .next t) : t.savedTemp = s.savedTemp ∧ t.savedUnit = s.savedUnit := by
  cases (exec_setMode_frameForMode m s).symm.trans h
  simp [tempclamp_of_savedConsistent hs]

/-- SETTIMER leaves the temperature and its unit. -/
theorem exec_setTimer_keeps_temp {m : BitVec 16} {s t : State} (h : exec (.setTimer m) s = .next t) :
    fieldAt t.frame 24 8 = fieldAt s.frame 24 8 ∧ fieldAt t.frame 38 1 = fieldAt s.frame 38 1 :=
  ⟨exec_fieldAt_other h (show Layout.temp ∉ [Layout.timerEn, Layout.timerHours] by decide),
    exec_fieldAt_other h (show Layout.unitF ∉ [Layout.timerEn, Layout.timerHours] by decide)⟩

/-- Settles O34: SETMODE establishes the fan and temperature parts, SETTIMER keeps them and adds the timer's. -/
theorem setModeThenSetTimerRepairsFrame : Obligations.SetModeThenSetTimerRepairsFrame := by
  intro m n s saved
  obtain ⟨t, ht⟩ : ∃ t, exec (.setMode m) s = .next t := ⟨_, exec_setMode m s⟩
  obtain ⟨u, hu⟩ : ∃ u, exec (.setTimer n) t = .next u := ⟨_, exec_setTimer n t⟩
  have runs : RunsTempSetter (.setMode m) := .inr (.inr ⟨m, rfl⟩)
  have fan := exec_keeps_fanFitsMode (i := .setTimer n) nofun nofun hu (exec_setMode_fanFitsMode ht)
  have temp := exec_keeps_tempInRange (i := .setTimer n) nofun nofun nofun hu (exec_runsTempSetter_tempInRange runs ht)
  have consistent := (consistent_iff _).mpr ⟨fan, exec_setTimer_timerAgrees hu, temp⟩
  obtain ⟨tempSaved, unitSaved, savedAfter⟩ := exec_runsTempSetter_saved runs ht
  obtain ⟨savedTempKept, savedUnitKept⟩ := exec_setMode_keeps_saved saved ht
  obtain ⟨tempKept, unitKept⟩ := exec_setTimer_keeps_temp hu
  refine ⟨t, u, ht, hu, consistent, savedAfter.effect (exec_effect hu), ?_, ?_⟩
  · rw [tempKept, tempSaved, savedTempKept]
  · rw [unitKept, fieldAt_one, unitSaved, savedUnitKept]
    simp

end Sys2Proof.Machine
end

section
/-! PROOF. The frame-packing commands (42_frame_packing.md): RESET (R160), the laws of the checksum (R166, R169), the
read-out and what it does not depend on (R163, R164), loading a frame (R165). -/

namespace Sys2Proof.Machine

/-! ## RESET and LOADPACKED (R160, R165) -/

/-- A word with the OP value of a command of format W decodes to it, with bits 95:32 of the word (R82). -/
theorem decodesAs_formatW (cmd : BitVec 64 → Instr) (hcmd : ∀ w, (cmd 0).withOperandsOf w = cmd (aField w)) :
    DecodesAs (opcode (cmd 0)).toNat (fun w => cmd (BitVec.ofNat 64 (w.toNat / 2 ^ 32))) := by
  simp only [← aField_eq_ofNat, ← hcmd]
  exact decodesAs_withOperandsOf (cmd 0)

/-- Settles O36. -/
theorem resetCommandRestoresDefaults : Obligations.ResetCommandRestoresDefaults :=
  ⟨decodesAs_withOperandsOf .reset, exec_reset⟩

/-- Settles O40. -/
theorem loadPackedReplacesFrame : Obligations.LoadPackedReplacesFrame :=
  ⟨decodesAs_formatW .loadPacked fun _ => rfl, exec_loadPacked⟩

/-! ## The checksum (R166, R167, R169) -/

theorem checksum_congr {v v' : Frame} (h : ∀ k, 16 ≤ k → k < 48 → v'.getLsbD k = v.getLsbD k) :
    checksum v' = checksum v :=
  BitVec.eq_of_toNat_eq (by rw [toNat_checksum, toNat_checksum, checksumNat_congr h])

theorem checksumNat_add_dataSum (v : Frame) : (checksumNat v + dataSum v) % 256 = 0 := by
  unfold checksumNat
  omega

/-- A sum of data bytes that grows by `d` modulo 256 lets the checksum fall by `d`. -/
theorem checksumNat_add_of_dataSum {v v' : Frame} {d : Nat} (h : dataSum v' % 256 = (dataSum v + d) % 256) :
    (checksumNat v' + d) % 256 = checksumNat v := by
  unfold checksumNat
  omega

/-- The offsets of the data bytes, as a set to sum over. -/
def dataOffsets : Finset Nat := {16, 24, 32, 40}

theorem dataSum_eq_sum (v : Frame) : dataSum v = ∑ o ∈ dataOffsets, fieldAt v o 8 := by
  simp [dataSum, dataOffsets, Nat.add_assoc]

theorem mem_dataOffsets {o : Nat} : o ∈ dataOffsets ↔ o = 16 ∨ o = 24 ∨ o = 32 ∨ o = 40 := by
  simp [dataOffsets]

/-- When one data byte grows by `d` modulo 256 and the others stay, so does the sum. -/
theorem dataSum_mod_of_byte {v v' : Frame} {o d : Nat} (ho : o ∈ dataOffsets)
    (others : ∀ o' ∈ dataOffsets, o' ≠ o → fieldAt v' o' 8 = fieldAt v o' 8)
    (grown : fieldAt v' o 8 = (fieldAt v o 8 + d) % 256) : dataSum v' % 256 = (dataSum v + d) % 256 := by
  have rest : ∑ o' ∈ dataOffsets.erase o, fieldAt v' o' 8 = ∑ o' ∈ dataOffsets.erase o, fieldAt v o' 8 :=
    Finset.sum_congr rfl fun o' h => others o' (Finset.mem_of_mem_erase h) (Finset.ne_of_mem_erase h)
  rw [dataSum_eq_sum, dataSum_eq_sum, ← Finset.add_sum_erase _ _ ho, ← Finset.add_sum_erase _ _ ho, rest, grown]
  omega

/-- Settles O42: the three laws on naturals, through the checksum as a number. -/
theorem checksumIsTwosComplementOfSum : Obligations.ChecksumIsTwosComplementOfSum := by
  refine ⟨fun v => ⟨toNat_checksum v, ?_⟩, fun _ _ => checksum_congr, fun v v' o d ho others grown => ?_⟩
  · rw [toNat_checksum]
    exact checksumNat_add_dataSum v
  · rw [toNat_checksum, toNat_checksum]
    exact checksumNat_add_of_dataSum
      (dataSum_mod_of_byte (mem_dataOffsets.mpr ho) (fun o' h => others o' (mem_dataOffsets.mp h)) grown)

/-- Settles O41. -/
theorem checksumCommandAnswersChecksum : Obligations.ChecksumCommandAnswersChecksum := by
  refine ⟨decodesAs_formatW .checksum fun _ => rfl, fun v s => ?_⟩
  rw [← toNat_checksum, BitVec.ofNat_toNat]
  exact exec_checksum v s

/-! ## The read-out (R163, R164) -/

/-- The stamps of a read-out depend on the bits outside HEADER and SUM only. -/
theorem stampFrame_congr (p : Params) {v v' : Frame}
    (h : ∀ k, (8 ≤ k ∧ k < 48) ∨ 56 ≤ k → v'.getLsbD k = v.getLsbD k) : stampFrame p v' = stampFrame p v := by
  have header : ∀ k, 8 ≤ k → (setHeader v' (BitVec.ofNat 8 p.headerConst)).getLsbD k =
      (setHeader v (BitVec.ofNat 8 p.headerConst)).getLsbD k := by
    intro k hk
    rw [getLsbD_setHeader, getLsbD_setHeader]
    split_ifs
    · rfl
    · exact h k (by omega)
  apply BitVec.eq_of_getLsbD_eq
  intro k _
  rw [stampFrame, stampFrame, checksum_congr fun k hl _ => header k (by omega), getLsbD_setSum, getLsbD_setSum]
  split_ifs
  · rfl
  · exact header k (by omega)

theorem stampFrame_stampFrame (p : Params) (v : Frame) : stampFrame p (stampFrame p v) = stampFrame p v :=
  stampFrame_congr p fun _ => getLsbD_stampFrame p v

/-- A read-out of a frame that carries its stamps changes nothing but the responses. -/
theorem exec_getPacked_of_stamped {s : State} (h : stampFrame Config.machine s.frame = s.frame) :
    exec .getPacked s = .next (s.respond (okResponse s.frame)) := by
  rw [exec_getPacked, h]
  rfl

/-- Settles O37: the checksum of the frame read out is that of the frame before. -/
theorem getPackedStampsHeaderAndSum : Obligations.GetPackedStampsHeaderAndSum := by
  refine ⟨decodesAs_withOperandsOf .getPacked, fun s => ?_⟩
  obtain ⟨header, sum⟩ := frameValid_stampFrame s.frame
  have sumKept : checksumNat (stampFrame Config.machine s.frame) = checksumNat s.frame :=
    checksumNat_congr fun k hl hu => getLsbD_stampFrame _ _ (by omega)
  exact ⟨stampFrame Config.machine s.frame, header, sum.trans sumKept, fun _ => getLsbD_stampFrame _ _,
    exec_getPacked s⟩

/-- Settles O38: stamping a stamped frame changes nothing, whether it was kept or loaded back. -/
theorem getPackedIsValidAndIdempotent : Obligations.GetPackedIsValidAndIdempotent := by
  intro s
  have stamped := stampFrame_stampFrame Config.machine s.frame
  exact ⟨_, exec_getPacked s, frameValid_stampFrame s.frame, rfl, exec_getPacked_of_stamped stamped,
    fun s' => ⟨_, exec_loadPacked _ s', exec_getPacked_of_stamped stamped⟩⟩

/-- No getter reads a bit of HEADER or SUM (R22). -/
theorem fieldsAnswered_between_stamps :
    ∀ g ∈ fieldGetters, ∀ f ∈ fieldsAnswered g, 8 ≤ f.offset ∧ f.offset + f.width ≤ 48 := by decide

/-- The fields the getters read are the same in a frame and its read-out. -/
theorem sameFields_stampFrame (p : Params) (v : Frame) {g : Instr} (hg : g ∈ fieldGetters) :
    SameFields (fieldsAnswered g) v (stampFrame p v) := by
  intro f hf
  obtain ⟨low, high⟩ := fieldsAnswered_between_stamps g hg f hf
  exact fieldAt_congr fun k hl hu => getLsbD_stampFrame p v (by omega)

/-- Settles O39: the getters read between the stamps, the read-out only what it does not stamp. -/
theorem getPackedHidesStaleStamps : Obligations.GetPackedHidesStaleStamps := by
  constructor
  · intro s t ht g hg r hr
    rw [exec_getPacked] at ht
    cases ht
    exact (answersFields_of_mem g hg).alike (sameFields_stampFrame _ _ hg) hr
  · intro s s' agree
    refine ⟨stampFrame Config.machine s.frame, exec_getPacked s, ?_⟩
    rw [← stampFrame_congr Config.machine agree]
    exact exec_getPacked s'

end Sys2Proof.Machine
end

section
/-! PROOF. The pulse encoder (43_pulse_encoder.md): the pulses of a pass (R182), the passes ENCODE appends (R184), what they
depend on (R183) and how long a pass is (R185). -/

namespace Sys2Proof.Machine

/-! ## The passes ENCODE appends (R182 to R184) -/

/-- Settles O44. -/
theorem frameSegmentsByIndex : Obligations.FrameSegmentsByIndex := fun v n =>
  ⟨length_frameSegments Config.machine v n, fun _ => getElem?_frameSegments v n⟩

/-- A word with ENCODE's OP value decodes to it, with the operands of format E as numbers of the word (R82). -/
theorem decodesAs_encode :
    DecodesAs 0x21 (fun w => .encode (BitVec.ofNat 64 (w.toNat / 2 ^ 32)) (BitVec.ofNat 16 (w.toNat / 2 ^ 16))
      (BitVec.ofNat 8 w.toNat)) := by
  simp only [← aField_eq_ofNat, ← bField_eq_ofNat, ← cByte_eq_ofNat]
  exact decodesAs_withOperandsOf (.encode 0 0 0)

/-- Settles O43: the segments are those of `framePasses`, counted and indexed pass by pass. -/
theorem encodeAppendsPasses : Obligations.EncodeAppendsPasses := by
  refine ⟨decodesAs_encode, fun v r n s hn => ?_, exec_encode_illegal⟩
  refine ⟨(framePasses Config.machine v n.toNat (r.toNat + 1)).map (segmentOf Config.machine), ?_, fun q j hq hj => ?_,
    exec_encode_legal v r n s hn⟩
  · rw [List.length_map, length_framePasses]
  · rw [List.getElem?_map, getElem?_framePasses _ _ _ _ _ _ (by omega) hj]

/-- ENCODE does the same for operands that agree on the bits sent (R183). -/
theorem exec_encode_congr {v v' : Frame} {n : BitVec 8} (agree : ∀ k, k < n.toNat → v'.getLsbD k = v.getLsbD k)
    (r : BitVec 16) (s : State) : exec (.encode v' r n) s = exec (.encode v r n) s := by
  by_cases hn : n.toNat ≤ 64
  · rw [exec_encode_legal v' r n s hn, exec_encode_legal v r n s hn, framePasses_congr _ agree]
  · rw [exec_encode_illegal v' r n s (by omega), exec_encode_illegal v r n s (by omega)]

/-- Settles O46: ENCODE of one operand emits the same from every state, and the other operand is as good as it. -/
theorem encodeDependsOnSentBitsOnly : Obligations.EncodeDependsOnSentBitsOnly := by
  intro v v' r n s s' agree
  obtain ⟨xs, a, emits⟩ := exec_encode_emits v r n
  exact ⟨xs.map (segmentOf Config.machine), a, emits s, (exec_encode_congr agree r s').trans (emits s')⟩

/-! ## The duration of a pass (R185) -/

theorem pulsesDuration_append (xs ys : List Pulse) :
    pulsesDuration (xs ++ ys) = pulsesDuration xs + pulsesDuration ys := by
  simp [pulsesDuration]

/-- A bit takes 523 + 564 µs when it is 0, and 1132 µs more when it is 1. -/
theorem pulsesDuration_bitPulses (v : Frame) (k : Nat) :
    pulsesDuration (bitPulses Config.machine v k) = 1087 + 1132 * if v.getLsbD k then 1 else 0 := by
  cases hb : v.getLsbD k <;> simp [pulsesDuration, bitPulses, hb]

theorem pulsesDuration_dataPulses (v : Frame) (n : Nat) :
    pulsesDuration (dataPulses Config.machine v n) = 1087 * n + 1132 * onesBelow v n := by
  induction n with
  | zero => rfl
  | succ n ih =>
    rw [dataPulses, pulsesDuration_append, ih, pulsesDuration_bitPulses, onesBelow]
    omega

/-- The header, the footer mark and the gap take 113739 µs in all. -/
theorem pulsesDuration_frameSegments (v : Frame) (n : Nat) :
    pulsesDuration (frameSegments Config.machine v n) = 113739 + 1087 * n + 1132 * onesBelow v n := by
  have header : pulsesDuration [(.mark, Config.machine.hdrMarkUs), (.space, Config.machine.hdrSpaceUs)] = 13216 := rfl
  have footer : pulsesDuration [(.mark, Config.machine.bitMarkUs), (.space, Config.machine.gapUs)] = 100523 := rfl
  rw [frameSegments, pulsesDuration_append, pulsesDuration_append, header, footer, pulsesDuration_dataPulses]
  omega

theorem onesBelow_le (v : Frame) (n : Nat) : onesBelow v n ≤ n := by
  induction n with
  | zero => exact Nat.le_refl 0
  | succ n ih =>
    rw [onesBelow]
    split <;> omega

/-- Settles O45: the formula, and between 0 and 56 ones for the bounds. -/
theorem passDurationFormula : Obligations.PassDurationFormula := by
  refine ⟨pulsesDuration_frameSegments, fun v => ?_⟩
  have ones := onesBelow_le v 56
  rw [pulsesDuration_frameSegments]
  omega

end Sys2Proof.Machine
end

section
/-! PROOF. A match is a capture that holds a frame (R205 to R213): each of DECODE's steps, with the machine's parameters, as
windows in µs (R215). -/

namespace Sys2Proof.Machine

/-! ## The windows (R205, R206) -/

/-- The window of `d` µs: 25 percent to each side, and 1 µs more above. -/
theorem matchWindow_machine (m : Entry) (d : Nat) :
    matchWindow Config.machine m d = true ↔ d * 75 / 100 ≤ m.toNat ∧ m.toNat ≤ d * 125 / 100 + 1 := by
  simp [matchWindow, windowLo, windowHi, entryUs]

theorem matchAtLeast_machine (m : Entry) (d : Nat) :
    matchAtLeast Config.machine m d = true ↔ m.toNat = 0 ∨ d * 75 / 100 ≤ m.toNat := by
  simp [matchAtLeast, windowLo, entryUs, ← BitVec.toNat_inj]

/-- A mark is measured 50 µs long. -/
theorem expectMark_machine {s : State} {i d : Nat} {c : FailCause} :
    expectMark Config.machine s i d c = .ok () ↔ EntryIn s i ((d + 50) * 75 / 100) ((d + 50) * 125 / 100 + 1) := by
  simp only [expectMark_ok, matchMark, matchWindow_machine]
  rfl

/-- A space is measured 50 µs short. -/
theorem expectSpace_machine {s : State} {i d : Nat} {c : FailCause} :
    expectSpace Config.machine s i d c = .ok () ↔ EntryIn s i ((d - 50) * 75 / 100) ((d - 50) * 125 / 100 + 1) := by
  simp only [expectSpace_ok, matchSpace, matchWindow_machine]
  rfl

/-! ## The bits (R207 step 6, R209) -/

/-- The windows of the two spaces have no duration in common, so the order of their tests does not matter. -/
theorem bitOfSpace_machine {sp : Entry} {b : Bool} :
    bitOfSpace Config.machine sp = .ok b ↔
      if b then 1234 ≤ sp.toNat ∧ sp.toNat ≤ 2058 else 385 ≤ sp.toNat ∧ sp.toNat ≤ 643 := by
  have one : matchSpace Config.machine sp Config.machine.oneSpaceUs = true ↔ 1234 ≤ sp.toNat ∧ sp.toNat ≤ 2058 :=
    matchWindow_machine sp (1696 - 50)
  have zero : matchSpace Config.machine sp Config.machine.zeroSpaceUs = true ↔ 385 ≤ sp.toNat ∧ sp.toNat ≤ 643 :=
    matchWindow_machine sp (564 - 50)
  rw [bitOfSpace_ok, ← Bool.not_eq_true, one, zero]
  cases b
  · simp only [Bool.false_eq_true, if_false]
    omega
  · rfl

theorem readBit_machine {s : State} {o k : Nat} {b : Bool} :
    readBit Config.machine s o k = .ok b ↔ EntryIn s (o + 2 + 2 * k) 429 717
      ∧ if b then EntryIn s (o + 3 + 2 * k) 1234 2058 else EntryIn s (o + 3 + 2 * k) 385 643 := by
  have mark (mk : Entry) : matchMark Config.machine mk Config.machine.bitMarkUs = true ↔
      429 ≤ mk.toNat ∧ mk.toNat ≤ 717 := matchWindow_machine mk (523 + 50)
  simp only [readBit_ok, mark, bitOfSpace_machine]
  cases b <;>
    exact ⟨fun ⟨mk, sp, hmk, hsp, hm, hs⟩ => ⟨⟨mk, hmk, hm⟩, sp, hsp, hs⟩,
      fun ⟨⟨mk, hmk, hm⟩, sp, hsp, hs⟩ => ⟨mk, sp, hmk, hsp, hm, hs⟩⟩

/-- The frame read is the one whose bits `n-1:0` are the bits read and whose other bits are 0. -/
theorem exists_readBits_ok {p : Params} {s : State} {o n : Nat} {v : Frame} (hn : n ≤ 64) :
    (∃ u, readBits p s o n = .ok u ∧ v = BitVec.ofNat 64 u) ↔
      (∀ k, k < n → readBit p s o k = .ok (v.getLsbD k)) ∧ ∀ k, n ≤ k → v.getLsbD k = false := by
  constructor
  · rintro ⟨u, hu, rfl⟩
    obtain ⟨hlt, bits⟩ := readBits_ok.mp hu
    refine ⟨fun k hk => ?_, fun k hk => ?_⟩
    · rw [BitVec.getLsbD_ofNat, decide_eq_true (by omega), Bool.true_and]
      exact bits k hk
    · rw [BitVec.getLsbD_ofNat, Nat.testBit_lt_two_pow (Nat.lt_of_lt_of_le hlt (Nat.pow_le_pow_right (by decide) hk)),
        Bool.and_false]
  · rintro ⟨bits, upper⟩
    exact ⟨v.toNat, readBits_ok.mpr ⟨Nat.lt_pow_two_of_testBit v.toNat upper, bits⟩, (v.ofNat_toNat 64).symm⟩

/-! ## The whole match (R207 steps 4 to 9) -/

theorem checkGap_machine {s : State} {g : Nat} :
    checkGap Config.machine s g = .ok () ↔
      (g < s.capLen.toNat → ∃ m, s.entryAt g = some m ∧ (m.toNat = 0 ∨ 11250 ≤ m.toNat)) := by
  simp only [checkGap_ok, matchAtLeast_machine]
  rfl

theorem sumAccepted_machine {b : Bool} {v : Frame} :
    sumAccepted Config.machine b v = true ↔
      (b = true → Config.strictVerifiesSum = true → fieldAt v 0 8 = checksumNat v) := by
  rw [← toNat_getSum, ← toNat_checksum, BitVec.toNat_inj]
  cases b <;> cases hs : Config.strictVerifiesSum <;> simp [sumAccepted, hs]

/-- DECODE's match, in the terms of R215. -/
theorem matchCapture_machine {s : State} {b : Bool} {o n : Nat} {v : Frame} (hn : n ≤ 64) :
    matchCapture Config.machine s b o n = .ok v ↔ CaptureHolds s o n v
      ∧ (b = true → Config.strictVerifiesSum = true → fieldAt v 0 8 = checksumNat v) := by
  rw [matchCapture_ok, expectMark_machine, expectSpace_machine, exists_readBits_ok hn, expectMark_machine,
    checkGap_machine, sumAccepted_machine]
  simp only [readBit_machine]
  constructor
  · rintro ⟨hdrMark, hdrSpace, ⟨bits, upper⟩, footer, gap, sum⟩
    exact ⟨⟨hdrMark, hdrSpace, fun k hk => (bits k hk).1, fun k hk => (bits k hk).2, footer, gap, upper⟩, sum⟩
  · rintro ⟨⟨hdrMark, hdrSpace, bitMark, bitSpace, footer, gap, upper⟩, sum⟩
    exact ⟨hdrMark, hdrSpace, ⟨fun k hk => ⟨bitMark k hk, bitSpace k hk⟩, upper⟩, footer, gap, sum⟩

theorem lt_capLen_of_entryAt {s : State} {i : Nat} {m : Entry} (h : s.entryAt i = some m) : i < s.capLen.toNat := by
  unfold State.entryAt at h
  split at h
  · assumption
  · cases h

/-- DECODE of a legal count answers the frame that the capture holds (R207, R212). -/
theorem exec_decode_of_captureHolds {b : Bool} {o : BitVec 16} {n : BitVec 8} {v : Frame} {s : State}
    (hn : n.toNat ≤ 64) (hb : b = true → n.toNat = 56) (hc : CaptureHolds s o.toNat n.toNat v)
    (sum : b = true → Config.strictVerifiesSum = true → fieldAt v 0 8 = checksumNat v) :
    exec (.decode b o n) s = .next (s.respond (Response.decoded Config.machine v n)) := by
  obtain ⟨_, hm, -⟩ := hc.footer
  have long := lt_capLen_of_entryAt hm
  have refused : ¬ (s.capLen.toNat < o.toNat + 2 * n.toNat + 3 ∨ (b = true ∧ n.toNat ≠ 56)) := by
    rintro (short | ⟨strict, count⟩)
    · omega
    · exact count (hb strict)
  rw [exec_decode_eq, if_neg (by omega), if_neg refused, (matchCapture_machine hn).mpr ⟨hc, sum⟩]

end Sys2Proof.Machine
end

section
/-! PROOF. The loop-back law (R186): a capture of the durations of a pass, with or without its gap, holds the bits sent. -/

namespace Sys2Proof.Machine

/-! ## A captured pass -/

/-- Every valid entry is the duration of the pulse with its index, and the footer mark is among them. -/
structure PassCaptured (s : State) (n : Nat) (v : Frame) : Prop where
  untilFooter : 2 * n + 3 ≤ s.capLen.toNat
  entry : ∀ i, i < s.capLen.toNat → ∃ m, s.entryAt i = some m
    ∧ ((frameSegments Config.machine v n)[i]?).map Prod.snd = some m.toNat

theorem PassCaptured.of_prefix {s : State} {n : Nat} {v : Frame} {ds : List Nat} (h : CapIs s ds)
    (hds : ds <+: (frameSegments Config.machine v n).map Prod.snd) (hlen : 2 * n + 3 ≤ ds.length) :
    PassCaptured s n v := by
  obtain ⟨len, entries⟩ := h
  refine ⟨len ▸ hlen, fun i hi => ?_⟩
  obtain ⟨m, hm, hd⟩ := entries i (len ▸ hi)
  refine ⟨m, hm, ?_⟩
  rw [← List.getElem?_map, List.prefix_iff_getElem?.mp hds i (len ▸ hi), ← hd, List.getElem?_eq_getElem]

/-- The premise of the law, with the gap's entry or without it. -/
theorem passCaptured_of_capIs {s : State} {n : Nat} {v : Frame}
    (h : CapIs s ((frameSegments Config.machine v n).map Prod.snd)
      ∨ CapIs s (((frameSegments Config.machine v n).map Prod.snd).dropLast)) : PassCaptured s n v := by
  have len := length_frameSegments Config.machine v n
  rcases h with h | h
  · exact .of_prefix h (List.prefix_refl _) (by simp; omega)
  · exact .of_prefix h (List.dropLast_prefix _) (by simp; omega)

/-- Bits `n` and above are not sent (R183). -/
theorem PassCaptured.congr {s : State} {n : Nat} {v v' : Frame} (h : PassCaptured s n v)
    (agree : ∀ k, k < n → v'.getLsbD k = v.getLsbD k) : PassCaptured s n v' :=
  ⟨h.untilFooter, by rw [frameSegments_congr _ agree]; exact h.entry⟩

/-! ## What it holds -/

section
variable {s : State} {n : Nat} {v : Frame}

theorem PassCaptured.entryIn (h : PassCaptured s n v) {i low high : Nat} {x : Pulse} (hi : i < 2 * n + 3)
    (hx : (frameSegments Config.machine v n)[i]? = some x) (window : low ≤ x.2 ∧ x.2 ≤ high) : EntryIn s i low high := by
  obtain ⟨m, hm, hd⟩ := h.entry i (Nat.lt_of_lt_of_le hi h.untilFooter)
  rw [hx] at hd
  have sent : x.2 = m.toNat := Option.some.inj hd
  exact ⟨m, hm, sent ▸ window⟩

theorem PassCaptured.bitMark (h : PassCaptured s n v) {k : Nat} (hk : k < n) : EntryIn s (2 * k + 2) 429 717 := by
  obtain ⟨hmark, -⟩ := getElem?_dataPulses Config.machine v n k hk
  exact h.entryIn (by omega) ((getElem?_frameSegments_data _ _ (by omega)).trans hmark) (by decide)

theorem PassCaptured.bitSpace (h : PassCaptured s n v) {k : Nat} (hk : k < n) :
    if v.getLsbD k then EntryIn s (2 * k + 1 + 2) 1234 2058 else EntryIn s (2 * k + 1 + 2) 385 643 := by
  obtain ⟨-, hspace⟩ := getElem?_dataPulses Config.machine v n k hk
  have sent := (getElem?_frameSegments_data Config.machine v (i := 2 * k + 1) (by omega)).trans hspace
  cases hb : v.getLsbD k <;> rw [hb] at sent <;> exact h.entryIn (by omega) sent (by decide)

theorem PassCaptured.gap (h : PassCaptured s n v) (hg : 2 * n + 2 + 1 < s.capLen.toNat) :
    ∃ m, s.entryAt (2 * n + 2 + 1) = some m ∧ (m.toNat = 0 ∨ 11250 ≤ m.toNat) := by
  obtain ⟨m, hm, hd⟩ := h.entry _ hg
  rw [getElem?_frameSegments_end] at hd
  have hgap : 100000 = m.toNat := Option.some.inj hd
  exact ⟨m, hm, .inr (by omega)⟩

/-- Every duration sent is in the window its place is tested for (R215). -/
theorem PassCaptured.captureHolds (h : PassCaptured s n v) (upper : ∀ k, n ≤ k → v.getLsbD k = false) :
    CaptureHolds s 0 n v where
  hdrMark := h.entryIn (by omega) rfl (by decide)
  hdrSpace := h.entryIn (by omega) rfl (by decide)
  bitMark k hk := by
    rw [show 0 + 2 + 2 * k = 2 * k + 2 by omega]
    exact h.bitMark hk
  bitSpace k hk := by
    rw [show 0 + 3 + 2 * k = 2 * k + 1 + 2 by omega]
    exact h.bitSpace hk
  footer := by
    rw [show 0 + 2 + 2 * n = 2 * n + 2 + 0 by omega]
    exact h.entryIn (by omega) (getElem?_frameSegments_end _ _ _ 0) (by decide)
  gap := by
    rw [show 0 + 3 + 2 * n = 2 * n + 2 + 1 by omega]
    exact h.gap
  upper := upper

end

/-! ## The law -/

/-- Reduced modulo `2^n`, a frame keeps its bits `n-1:0` and has zeros above. -/
theorem getLsbD_ofNat_mod_two_pow (v : Frame) (n k : Nat) :
    (BitVec.ofNat 64 (v.toNat % 2 ^ n)).getLsbD k = (decide (k < n) && v.getLsbD k) := by
  rw [BitVec.getLsbD_ofNat, Nat.testBit_mod_two_pow, BitVec.testBit_toNat]
  by_cases hk : k < 64
  · simp [hk]
  · simp [BitVec.getLsbD_of_ge v k (by omega)]

/-- Settles O55: the capture holds the bits sent, and under strict those are the 56 that the checksum looks at. -/
theorem loopbackDecodesWhatWasEncoded : Obligations.LoopbackDecodesWhatWasEncoded := by
  intro b n v s hn hb sum hcap
  have strict : b = true → n.toNat = 56 := fun h => hb.resolve_left (by simp [h])
  have sent : ∀ k, k < n.toNat → (BitVec.ofNat 64 (v.toNat % 2 ^ n.toNat)).getLsbD k = v.getLsbD k := fun k hk => by
    rw [getLsbD_ofNat_mod_two_pow, decide_eq_true hk, Bool.true_and]
  have unsent : ∀ k, n.toNat ≤ k → (BitVec.ofNat 64 (v.toNat % 2 ^ n.toNat)).getLsbD k = false := fun k hk => by
    rw [getLsbD_ofNat_mod_two_pow, decide_eq_false (by omega), Bool.false_and]
  refine exec_decode_of_captureHolds hn strict (((passCaptured_of_capIs hcap).congr sent).captureHolds unsent)
    fun h hv => ?_
  have count := strict h
  rw [fieldAt_congr fun k _ _ => sent k (by omega), checksumNat_congr fun k _ _ => sent k (by omega)]
  exact sum h hv

end Sys2Proof.Machine
end

section
/-! PROOF. The capture buffer and DECODE (44_pulse_decoder.md): emptying and filling the buffer (R200, R201), the matcher's
windows (R215), and what DECODE answers, refuses and reads (R203 to R214). -/

namespace Sys2Proof.Machine

/-! ## The capture buffer (R200, R201) -/

/-- With CAP_LEN 0 no entry is valid (R46). -/
theorem entryAt_of_capLen_zero {s : State} (h : s.capLen = 0#16) (i : Nat) : s.entryAt i = none := by
  simp [State.entryAt, h]

/-- Settles O47: CAPCLR writes CAP_LEN alone, and no index is below 0. -/
theorem capClrEmptiesTheBuffer : Obligations.CapClrEmptiesTheBuffer := by
  refine ⟨decodesAs_withOperandsOf .capClr, fun s => ⟨exec_capClr s, fun t ht => ?_⟩⟩
  rw [exec_capClr] at ht
  cases ht
  exact ⟨entryAt_of_capLen_zero rfl, fun _ => rfl⟩

/-- The law of a write for every memory, in canonical form or not: an entry the write leaves behind is never found
before the one written. -/
theorem Memory.read_write_of_any (m : Memory) (i j : Nat) (v : Entry) :
    Memory.read (Memory.write m i v) j = if j = i then some v else Memory.read m j := by
  induction m with
  | nil => rfl
  | cons x m ih =>
    obtain ⟨k, u⟩ := x
    unfold Memory.write
    split
    · rfl
    · split
      · next same =>
        subst same
        by_cases hj : j = i <;> simp [Memory.read, hj]
      · next other =>
        by_cases hj : j = k
        · subst hj
          rw [Memory.read_head, Memory.read_head, if_neg (Ne.symm other)]
        · rw [Memory.read_tail_of_ne _ _ hj, Memory.read_tail_of_ne _ _ hj, ih]

/-- A word with CAPPUSH's OP value decodes to it, with bits 63:32 of the word (R82). -/
theorem decodesAs_capPush : DecodesAs 0x24 (fun w => .capPush (BitVec.ofNat 32 (w.toNat / 2 ^ 32))) := by
  simp only [← aEntry_eq_ofNat]
  exact decodesAs_withOperandsOf (.capPush 0)

/-- Settles O48: CAP_LEN below 1024 does not wrap when it is counted up. -/
theorem capPushAppendsOneEntry : Obligations.CapPushAppendsOneEntry := by
  refine ⟨decodesAs_capPush, fun d s room => ?_, exec_capPush_full⟩
  have count : (s.capLen + 1#16).toNat = s.capLen.toNat + 1 := by bv_omega
  exact ⟨_, _, count, fun i => Memory.read_write_of_any s.cap _ i d, exec_capPush_room d s room⟩

/-! ## The windows (R215) -/

/-- Settles O50: each window is the machine's at one of its durations, marks 50 µs longer and spaces 50 µs shorter. -/
theorem matcherWindows : Obligations.MatcherWindows := fun m =>
  ⟨matchWindow_machine m (8836 + 50), matchWindow_machine m (4380 - 50), matchWindow_machine m (523 + 50),
    matchWindow_machine m (1696 - 50), matchWindow_machine m (564 - 50), matchAtLeast_machine m 15000⟩

/-! ## DECODE's answers (R203, R204, R207, R212, R214) -/

/-- A word with DECODE's OP value decodes to it, with the operands of format D as numbers of the word (R82). -/
theorem decodesAs_decode : DecodesAs 0x22 (fun w =>
    .decode (w.getLsbD 32) (BitVec.ofNat 16 (w.toNat / 2 ^ 16)) (BitVec.ofNat 8 w.toNat)) := by
  simp only [← aBool_eq, ← bField_eq_ofNat, ← cByte_eq_ofNat]
  exact decodesAs_withOperandsOf (.decode false 0 0)

/-- Settles O51: a captured frame passes both tests before the match, and the match accepts it. -/
theorem decodeAnswersTheCapturedFrame : Obligations.DecodeAnswersTheCapturedFrame :=
  ⟨decodesAs_decode, fun _ _ _ _ _ => exec_decode_of_captureHolds⟩

theorem exec_decode_illegal (b : Bool) (o : BitVec 16) {n : BitVec 8} (s : State) (hn : 64 < n.toNat) :
    exec (.decode b o n) s = .next (s.respond errResponse) := by
  rw [exec_decode_eq, if_pos hn]

theorem exec_decode_refused {b : Bool} {o : BitVec 16} {n : BitVec 8} {s : State} (hn : n.toNat ≤ 64)
    (refused : s.capLen.toNat < o.toNat + 2 * n.toNat + 3 ∨ (b = true ∧ n.toNat ≠ 56)) :
    exec (.decode b o n) s = .next (s.respond failResponse) := by
  rw [exec_decode_eq, if_neg (Nat.not_lt.mpr hn), if_pos refused]

/-- Settles O53: neither test looks at the entries, so the answer needs no match. -/
theorem decodeRefusesInOrder : Obligations.DecodeRefusesInOrder := fun b o _ s =>
  ⟨exec_decode_illegal b o s, exec_decode_refused⟩

/-- Settles O52: past the two tests that refuse, the match succeeds, and then the capture holds its value, or it fails. -/
theorem decodeAnswersNothingElse : Obligations.DecodeAnswersNothingElse := by
  intro b o n s hs hn
  by_cases refused : s.capLen.toNat < o.toNat + 2 * n.toNat + 3 ∨ (b = true ∧ n.toNat ≠ 56)
  · exact .inl (exec_decode_refused hn refused)
  · obtain ⟨long, strict⟩ := not_or.mp refused
    have count : b = true → n.toNat = 56 := fun h => by_contra fun hne => strict ⟨h, hne⟩
    match hm : matchCapture Config.machine s b o.toNat n.toNat with
    | .ok v =>
      obtain ⟨holds, sum⟩ := (matchCapture_machine hn).mp hm
      exact .inr ⟨v, holds, count, sum, exec_decode_of_captureHolds hn count holds sum⟩
    | .error x =>
      obtain ⟨c, rfl⟩ := matchCapture_error hs (by omega) hm
      refine .inl ?_
      rw [exec_decode_eq, if_neg (Nat.not_lt.mpr hn), if_neg refused, hm]
      exact s.takeStop_fail c

/-- In a state that meets the invariant DECODE always answers (R203). -/
theorem exists_exec_decode_next (b : Bool) (o : BitVec 16) (n : BitVec 8) {s : State} (hs : MachineInv s) :
    ∃ t, exec (.decode b o n) s = .next t := by
  by_cases hn : n.toNat ≤ 64
  · rcases decodeAnswersNothingElse b o n s hs hn with h | ⟨v, -, -, -, h⟩ <;> exact ⟨_, h⟩
  · exact ⟨_, exec_decode_illegal b o s (Nat.lt_of_not_le hn)⟩

/-- Settles O54: the response that the first state gives is given by every state with the same valid entries. -/
theorem decodeReadsOnlyTheCapture : Obligations.DecodeReadsOnlyTheCapture := by
  intro b o n s s' hs hlen hentries
  obtain ⟨t, ht⟩ := exists_exec_decode_next b o n hs
  obtain ⟨r, rfl, hr⟩ := exec_decode_alike hlen hentries ht
  exact ⟨r, ht, hr⟩

end Sys2Proof.Machine
end

section
/-! PROOF. The block's exceptions (60_exceptions.md): a FAIL or an ERR is a command's only effect (R237), and no command
hangs, traps or is abandoned (R230). -/

namespace Sys2Proof.Machine

/-! ## No command stops the machine (R230) -/

/-- With CAP_LEN within CAP_DEPTH, CAPPUSH finds its entry or a full buffer (R201). -/
theorem exists_exec_capPush_next (d : Entry) {s : State} (within : s.capLen.toNat ≤ 1024) :
    ∃ t, exec (.capPush d) s = .next t := by
  rcases Nat.lt_or_eq_of_le within with room | full
  · exact ⟨_, exec_capPush_room d s room⟩
  · exact ⟨_, exec_capPush_full d s full⟩

/-- DECODE and CAPPUSH alone touch CAP, and the invariant gives them the entries they touch; every other command
answers from every state. -/
theorem exists_exec_next (i : Instr) {s : State} (hs : MachineInv s) : ∃ t, exec i s = .next t := by
  cases i with
  | decode b o n => exact exists_exec_decode_next b o n hs
  | capPush d => exact exists_exec_capPush_next d hs.capLen_le
  | encode v c n =>
    obtain ⟨xs, r, hx⟩ := exec_encode_emits v c n
    exact ⟨_, hx s⟩
  | _ => exact ⟨_, rfl⟩

/-- Settles O7, by what is presented: nothing, the hardware reset, a word that is a command, a word that is none. -/
theorem invariantStatesNeverStop : Obligations.InvariantStatesNeverStop := by
  intro s hs
  match hi : s.inputs with
  | [] => exact ⟨s, by rw [step, fetch_nil hi]⟩
  | .hardReset :: rest => exact ⟨_, by rw [step, fetch_hardReset hi]⟩
  | .command w :: rest =>
    match hd : decode w with
    | .ok i =>
      rw [step_of_decode_ok hi hd]
      exact exists_exec_next i (hs.takeInput rest)
    | .error (.illegalOpcode op) =>
      rw [step_of_decode_error hi hd]
      exact ⟨_, State.takeStop_err _ .illegalOpcode⟩

/-! ## A response that is not OK is the only effect (R237) -/

/-- A command either ends OK, with whatever it has written, or does nothing but respond. -/
theorem exec_ok_or_responds {i : Instr} {s t : State} (h : exec i s = .next t) :
    (∃ u v, t = State.respond u (okResponse v) ∧ u.responses = s.responses) ∨ ∃ r, t = s.respond r := by
  cases i with
  | decode b o n =>
    obtain ⟨r, ht, -⟩ := exec_decode_alike rfl (fun _ => rfl) h
    exact .inr ⟨r, ht⟩
  | encode v c n =>
    by_cases hn : n.toNat ≤ 64
    · rw [exec_encode_legal v c n s hn] at h
      cases h
      exact .inl ⟨_, _, rfl, rfl⟩
    · rw [exec_encode_illegal v c n s (Nat.lt_of_not_le hn)] at h
      cases h
      exact .inr ⟨_, rfl⟩
  | capPush d =>
    rcases exec_capPush_next h with ⟨-, rfl⟩ | ⟨-, rfl⟩
    · exact .inl ⟨_, _, rfl, rfl⟩
    · exact .inr ⟨_, rfl⟩
  | _ =>
    cases h
    exact .inl ⟨_, _, rfl, rfl⟩

/-- The response added to `s` is the one the command ended with. -/
theorem State.respond_responses_inj {s u : State} {r r' : Response} (same : u.responses = s.responses)
    (h : (u.respond r').responses = s.responses ++ [r]) : r' = r := by
  rw [State.respond_responses, same] at h
  exact List.singleton_inj.mp (List.append_cancel_left h)

/-- Settles O10: a command that did not end OK has only responded, with the one response there is. -/
theorem failureChangesNothing : Obligations.FailureChangesNothing := by
  intro i s t r h hr failed
  rcases exec_ok_or_responds h with ⟨u, v, rfl, same⟩ | ⟨r', rfl⟩
  · obtain rfl := State.respond_responses_inj same hr
    exact absurd rfl failed
  · obtain rfl := State.respond_responses_inj rfl hr
    rfl

end Sys2Proof.Machine
end

section
/-! PROOF. Reset and the block's hazards (70_reset_and_hazards.md): the hardware reset from every state (R260), the unit
that SETMODE undoes and the fan override that outlives Dry (R268, R271), and the read-out received by another block
(R262). -/

namespace Sys2Proof.Machine

/-! ## The hardware reset (R260) -/

/-- Settles O4: taking the reset input does not look at the rest of the state. -/
theorem hardwareResetFromEveryState : Obligations.HardwareResetFromEveryState := by
  intro s rest hi
  rw [step, fetch_hardReset hi]
  rfl

/-! ## SETMODE after SETTEMPUNIT, and after Dry (R268, R271) -/

theorem exec_setTempUnit_savedUnit {f : Bool} {s t : State} (h : exec (.setTempUnit f) s = .next t) :
    t.savedUnit = s.savedUnit := by
  cases (exec_setTempUnit f s).symm.trans h
  rfl

/-- SETMODE puts the saved unit in FRAME and leaves it saved, whether the saved pair is consistent or not. -/
theorem exec_setMode_unit {m : BitVec 8} {s t : State} (h : exec (.setMode m) s = .next t) :
    t.frame.getLsbD 38 = s.savedUnit ∧ t.savedUnit = s.savedUnit := by
  cases (exec_setMode_frameForMode m s).symm.trans h
  exact ⟨getLsbD_applyTemp_frame _ _ _ _, rfl⟩

theorem exec_setMode_fan {m : BitVec 8} {s t : State} (h : exec (.setMode m) s = .next t) :
    fieldAt t.frame 32 4 = fannorm Config.machine (fieldAt s.frame 32 4) (modenorm Config.machine m.toNat) := by
  obtain ⟨f, temp, -, -, fan, -, -, -, hx⟩ := setModeReappliesFanAndTemperature.2 m s
  cases hx.symm.trans h
  exact fan

/-- In Dry every request gives Low. -/
theorem fannorm_dry (speed : Nat) : fannorm Config.machine speed 2 = 1 := by
  rw [fannormTable, if_pos rfl]

/-- Low is kept in every mode. -/
theorem fannorm_low (mode : Nat) : fannorm Config.machine 1 mode = 1 := by
  rw [fannormTable]
  by_cases dry : mode = 2 <;> simp [dry]

/-- Settles O35: SETMODE takes the unit from the saved pair, which SETTEMPUNIT does not write, and the fan request from
FRAME, where Dry has put Low. -/
theorem setModeUndoesUnitAndDryIsSticky : Obligations.SetModeUndoesUnitAndDryIsSticky := by
  constructor
  · intro f m s
    obtain ⟨t, ht⟩ : ∃ t, exec (.setTempUnit f) s = .next t := ⟨_, exec_setTempUnit f s⟩
    obtain ⟨u, hu⟩ : ∃ u, exec (.setMode m) t = .next u := ⟨_, exec_setMode m t⟩
    have kept := exec_setTempUnit_savedUnit ht
    obtain ⟨unit, saved⟩ := exec_setMode_unit hu
    exact ⟨t, u, ht, hu, unit.trans kept, saved.trans kept⟩
  · intro m s
    obtain ⟨t, ht⟩ : ∃ t, exec (.setMode 2#8) s = .next t := ⟨_, exec_setMode 2#8 s⟩
    obtain ⟨u, hu⟩ : ∃ u, exec (.setMode m) t = .next u := ⟨_, exec_setMode m t⟩
    have low : fieldAt t.frame 32 4 = 1 := (exec_setMode_fan ht).trans (fannorm_dry _)
    refine ⟨t, u, ht, hu, low, ?_⟩
    rw [exec_setMode_fan hu, low, fannorm_low]

/-! ## The read-out received (R262, R91) -/

/-- The value a capture of 56 bits of a frame holds: the bits above are not sent (R183). -/
def receivedFrame (v : Frame) : Frame := BitVec.ofNat 64 (v.toNat % 2 ^ 56)

theorem toNat_receivedFrame (v : Frame) : (receivedFrame v).toNat = v.toNat % 2 ^ 56 := by
  have fits : v.toNat % 2 ^ 56 < 2 ^ 64 := by omega
  rw [receivedFrame, BitVec.toNat_ofNat, Nat.mod_eq_of_lt fits]

theorem getLsbD_receivedFrame (v : Frame) {k : Nat} (hk : k < 56) : (receivedFrame v).getLsbD k = v.getLsbD k := by
  rw [receivedFrame, getLsbD_ofNat_mod_two_pow, decide_eq_true hk, Bool.true_and]

/-- Both stamps and the bytes they check are in bits 55:0 (R22, R166). -/
theorem frameValid_congr {v v' : Frame} (h : ∀ k, k < 56 → v'.getLsbD k = v.getLsbD k) (valid : FrameValid v) :
    FrameValid v' := by
  obtain ⟨header, sum⟩ := valid
  constructor
  · rw [fieldAt_congr fun k _ _ => h k (by omega), header]
  · rw [fieldAt_congr fun k _ _ => h k (by omega), checksumNat_congr fun k _ _ => h k (by omega), sum]

/-- The fields the getters read, between the two stamps, are the same in a frame and its read-out received. -/
theorem sameFields_receivedFrame (p : Params) (v : Frame) {g : Instr} (hg : g ∈ fieldGetters) :
    SameFields (fieldsAnswered g) v (receivedFrame (stampFrame p v)) := by
  intro f hf
  obtain ⟨low, high⟩ := fieldsAnswered_between_stamps g hg f hf
  exact fieldAt_congr fun k hl hu =>
    (getLsbD_receivedFrame _ (by omega)).trans (getLsbD_stampFrame p v (by omega))

/-- A valid frame passes the checksum test of a strict DECODE, if there is one (R213), so a capture of its pass
decodes. -/
theorem exec_decode_strict_of_frameValid {f : Frame} {c : State} (valid : FrameValid f)
    (captured : CapIs c ((frameSegments Config.machine f 56).map Prod.snd)) :
    exec (.decode true 0 56) c = .next { c with responses := c.responses ++
      [⟨.ok, receivedFrame f, 56, Config.protocolId, 0, 0⟩] } :=
  loopbackDecodesWhatWasEncoded true 56#8 f c (by decide) (.inr rfl) (fun _ _ => valid.2) (.inl captured)

/-- Settles O56: the read-out is a valid frame, so its 56 bits decode under strict; they hold both stamps and every
field a getter reads. -/
theorem sentFrameIsReceived : Obligations.SentFrameIsReceived := by
  intro s c f readOut captured
  obtain rfl : stampFrame Config.machine s.frame = f :=
    congrArg State.frame (Host.Outcome.next.inj ((exec_getPacked s).symm.trans readOut))
  have valid := frameValid_stampFrame s.frame
  exact ⟨_, toNat_receivedFrame _, exec_decode_strict_of_frameValid valid captured, _, exec_loadPacked _ c,
    frameValid_congr (fun _ => getLsbD_receivedFrame _) valid,
    fun g hg _ hr => (answersFields_of_mem g hg).alike (sameFields_receivedFrame _ _ hg) hr⟩

end Sys2Proof.Machine
end
